-- ==== Sys2Proof/Word.lean ====
section
/-! DEFINITION. The word types of the machine: a dword (DW) of 32 bits (R8) and the byte that the `ub` fields of an
instruction are (R62). -/

namespace Sys2Proof

/-- A dword, "each 32-bit SIMD channel" (R8). -/
abbrev Word := BitVec 32

/-- One unsigned byte, the reading of `ub` (R62; log 14). -/
abbrev Byte := BitVec 8

/-- A 16-bit element of a float DPAS, `bf` or `hf` (R161, R162). -/
abbrev Half := BitVec 16

end Sys2Proof
end

