-- ==== Sys2Proof/Config.lean ====
section
/-! DEFINITION. What an implementation fixes: the platform (R6), the channels a mask code enables (R26), and the open values
of the spec, which are opaque constants (R166, R26). -/

namespace Sys2Proof

/-- The two platforms the source distinguishes (R6): `xehp` is "pre PVC", `pvc` is "PVC or later". -/
inductive Platform where
  | xehp
  | pvc
  deriving DecidableEq, Repr

/-- The order of the elements inside a dword (R42). The spec admits `lsbFirst` alone; the other reading has a name so that
the choice is one (log 10). -/
inductive ElemOrder where
  | lsbFirst
  | msbFirst
  deriving DecidableEq, Repr

/-- `ChEn(code, i)` for the eight codes `M1` .. `M8` (R26): bit `i` of a row says whether channel `i` is enabled. Sixteen
bits a row cover every channel of both platforms, so every predicate `ChEn` is some value of this type. -/
structure ChannelEnables where
  m1 : BitVec 16
  m2 : BitVec 16
  m3 : BitVec 16
  m4 : BitVec 16
  m5 : BitVec 16
  m6 : BitVec 16
  m7 : BitVec 16
  m8 : BitVec 16
  deriving DecidableEq, Repr, Inhabited

/-- `FDOT2ACC_bf` (R166): the float stage of kind `bf`, an open function of its five operands and of nothing else.
A free value: it has no body, and no proof can see its result (log 12). -/
opaque Config.fdot2accBf : Word → Half → Half → Half → Half → Word

/-- `FDOT2ACC_hf` (R166), as `FDOT2ACC_bf` for kind `hf` (log 12). -/
opaque Config.fdot2accHf : Word → Half → Half → Half → Half → Word

/-- The predicate `ChEn` of a run that starts from reset: open (R26), so a free value (log 6). -/
opaque Config.chEnAtReset : ChannelEnables

end Sys2Proof
end

