-- ==== Sys2Proof/Syntax.lean ====
section
/-! DEFINITION. The instruction as data: operand types (R65), operands as `resolve` gives them (R64), the decoded term (R77),
the precisions (R68), and `Instr`, one constructor for each row of the opcode table (R78). -/

namespace Sys2Proof

/-- The operand types the source names (R65). -/
inductive OpType where
  | d
  | ud
  | f
  | bf
  | hf
  | df
  deriving DecidableEq, Repr

/-- An operand as `resolve` gives it (R64): `null`, or a place in the GRF (GRF number and DW offset), the operand's type, and
whether a source modifier stands on it (R76). Any start can be written down, so that a misaligned one can be shown refused; what
a DW offset beyond the GRF means is the model's choice (log 23). -/
inductive Operand where
  | null
  | reg (grf dw : Nat) (ty : OpType) (modifier : Bool)
  deriving DecidableEq, Repr

/-- The three fields of the `Exec_size` byte (R66). -/
structure ExecSize where
  sizeCode : BitVec 3
  bit3     : BitVec 1
  maskCode : BitVec 4
  deriving DecidableEq, Repr

/-- The fields of a DPAS that no admitted row of the opcode table fixes: everything but `W`, `A` and `SD`. -/
structure Form where
  execSize : ExecSize
  dst      : Operand
  src0     : Operand
  src1     : Operand
  src2     : Operand
  rc       : Byte
  deriving DecidableEq, Repr

/-- The decoded term of R77, whatever the field values are. -/
structure Dpas extends Form where
  w  : Byte
  a  : Byte
  sd : Byte
  deriving DecidableEq, Repr

/-- The precisions that have a row with a name in the table of R68. -/
inductive Precision where
  | u1
  | s1
  | u2
  | s2
  | u4
  | s4
  | u8
  | s8
  | bf
  | hf
  | tf32
  deriving DecidableEq, Repr

/-- The six integer precisions that have semantics (R140). -/
inductive IntPrec where
  | u2
  | s2
  | u4
  | s4
  | u8
  | s8
  deriving DecidableEq, Repr

/-- The kind of a DPAS (R102), with the two element precisions of an integer one: `int w a` has `Src1` elements of `w` and
`Src2` elements of `a`. -/
inductive Kind where
  | int (w a : IntPrec)
  | bf
  | hf
  deriving DecidableEq, Repr

/-- One constructor for each row of the opcode table. `dpas` is the generic row; it carries any term. The 38 admitted rows fix
`W`, `A` and `SD = 8` and carry the other fields. The ten rows after them are the classes of refused forms. Which row a term
belongs to is `Instr.ofTerm` (log 15). -/
inductive Instr where
  | dpas (t : Dpas)
  | dpasU2U2 (f : Form)
  | dpasU2S2 (f : Form)
  | dpasU2U4 (f : Form)
  | dpasU2S4 (f : Form)
  | dpasU2U8 (f : Form)
  | dpasU2S8 (f : Form)
  | dpasS2U2 (f : Form)
  | dpasS2S2 (f : Form)
  | dpasS2U4 (f : Form)
  | dpasS2S4 (f : Form)
  | dpasS2U8 (f : Form)
  | dpasS2S8 (f : Form)
  | dpasU4U2 (f : Form)
  | dpasU4S2 (f : Form)
  | dpasU4U4 (f : Form)
  | dpasU4S4 (f : Form)
  | dpasU4U8 (f : Form)
  | dpasU4S8 (f : Form)
  | dpasS4U2 (f : Form)
  | dpasS4S2 (f : Form)
  | dpasS4U4 (f : Form)
  | dpasS4S4 (f : Form)
  | dpasS4U8 (f : Form)
  | dpasS4S8 (f : Form)
  | dpasU8U2 (f : Form)
  | dpasU8S2 (f : Form)
  | dpasU8U4 (f : Form)
  | dpasU8S4 (f : Form)
  | dpasU8U8 (f : Form)
  | dpasU8S8 (f : Form)
  | dpasS8U2 (f : Form)
  | dpasS8S2 (f : Form)
  | dpasS8U4 (f : Form)
  | dpasS8S4 (f : Form)
  | dpasS8U8 (f : Form)
  | dpasS8S8 (f : Form)
  | dpasBfBf (f : Form)
  | dpasHfHf (f : Form)
  | dpasOneBit (t : Dpas)
  | dpasTf32Tf32 (f : Form) (sd : Byte)
  | dpasUnusedPrecision (t : Dpas)
  | dpasUnassignedPrecision (t : Dpas)
  | dpasMixedPrecision (t : Dpas)
  | dpasShallowDepth (t : Dpas)
  | dpasOtherDepth (t : Dpas)
  | dpasBadRepeatCount (t : Dpas)
  | dpasUnsupportedType (t : Dpas)
  | dpasBadExecSize (t : Dpas)
  deriving DecidableEq, Repr

end Sys2Proof
end

