-- ==== Sys2Proof/Machine/Precision.lean ====
section
/-! DEFINITION. The precision codes (R68), the widths and ranges of the elements (R105, R140), the kind of a DPAS (R102) and
the derived quantities of a kind (R105 to R108). -/

namespace Sys2Proof.Machine

/-- The row of the table of R68 that a `W` or `A` byte names. "Unused" (`0000b`), a code with no row and a byte above `0x0F`
name none (R68, R71; log 14). -/
def precisionOfByte (b : Byte) : Option Precision :=
  match b.toNat with
  | 0x1 => some .u1
  | 0x2 => some .s1
  | 0x3 => some .u2
  | 0x4 => some .s2
  | 0x5 => some .u4
  | 0x6 => some .s4
  | 0x7 => some .u8
  | 0x8 => some .s8
  | 0x9 => some .bf
  | 0xA => some .hf
  | 0xC => some .tf32
  | _   => none

/-- The precision an integer element type is (R140). -/
def intPrecOf : Precision → Option IntPrec
  | .u2 => some .u2
  | .s2 => some .s2
  | .u4 => some .u4
  | .s4 => some .s4
  | .u8 => some .u8
  | .s8 => some .s8
  | .u1 | .s1 | .bf | .hf | .tf32 => none

/-- The code of an integer precision (R140, column "code"). -/
def intPrecCode : IntPrec → Byte
  | .u2 => 0x03
  | .s2 => 0x04
  | .u4 => 0x05
  | .s4 => 0x06
  | .u8 => 0x07
  | .s8 => 0x08

/-- The width `P` of an integer element (R140). -/
def intPrecBits : IntPrec → Nat
  | .u2 | .s2 => 2
  | .u4 | .s4 => 4
  | .u8 | .s8 => 8

/-- Whether an integer element is signed (R140). -/
def intPrecSigned : IntPrec → Bool
  | .s2 | .s4 | .s8 => true
  | .u2 | .u4 | .u8 => false

/-- The text format of a precision (R68, R73). -/
def precisionText : Precision → String
  | .u1 => "u1"
  | .s1 => "s1"
  | .u2 => "u2"
  | .s2 => "s2"
  | .u4 => "u4"
  | .s4 => "s4"
  | .u8 => "u8"
  | .s8 => "s8"
  | .bf => "bf"
  | .hf => "hf"
  | .tf32 => "tf32"

/-- The kind two precisions have together, if any (R102): two integer precisions in any mix, `bf` with `bf`, `hf` with `hf`. -/
def kindOfPrecisions (pw pa : Precision) : Option Kind :=
  match intPrecOf pw, intPrecOf pa with
  | some w, some a => some (.int w a)
  | _, _ =>
    match pw, pa with
    | .bf, .bf => some .bf
    | .hf, .hf => some .hf
    | _, _ => none

/-- The kind of a term, a function of `W` and `A` alone (R102). -/
def dpasKind (t : Dpas) : Option Kind :=
  match precisionOfByte t.w, precisionOfByte t.a with
  | some pw, some pa => kindOfPrecisions pw pa
  | _, _ => none

/-- The `W` byte of a kind (R68). -/
def kindCodeW : Kind → Byte
  | .int w _ => intPrecCode w
  | .bf => 0x09
  | .hf => 0x0A

/-- The `A` byte of a kind (R68). -/
def kindCodeA : Kind → Byte
  | .int _ a => intPrecCode a
  | .bf => 0x09
  | .hf => 0x0A

/-- `P1`, the bits of an element of `Src1` (R105). -/
def kindP1 : Kind → Nat
  | .int w _ => intPrecBits w
  | .bf | .hf => 16

/-- `P2`, the bits of an element of `Src2` (R105). -/
def kindP2 : Kind → Nat
  | .int _ a => intPrecBits a
  | .bf | .hf => 16

/-- `OPS_PER_CHAN` (R106): the elements multiplied per channel per stage. -/
def kindOps (k : Kind) : Nat :=
  if kindP1 k = 16 then 2
  else if kindP1 k = 8 ∨ kindP2 k = 8 then 4
  else 8

/-- `SRC1_OPERANDS_PER_CHAN` (R107): how many stages one dword of `Src1` feeds. -/
def kindS1opc (k : Kind) : Nat :=
  32 / (kindOps k * kindP1 k)

/-- `ALIGN2` (R110): the alignment of `Src2` in dwords, which is the number of dwords in one row of A (R111). -/
def kindAlign2 (k : Kind) (sd : Nat) : Nat :=
  sd * kindP2 k * kindOps k / 32

/-- `G1` (R111): the GRFs that `Src1` covers, `ceil (SD / S1OPC)`. -/
def kindG1 (k : Kind) (sd : Nat) : Nat :=
  (sd + kindS1opc k - 1) / kindS1opc k

/-- `K` (R108): the columns of A and the rows of B. -/
def kindK (k : Kind) (sd : Nat) : Nat :=
  sd * kindOps k

end Sys2Proof.Machine
end

