-- ==== Sys2Proof/WellFormed.lean ====
section
/-! DEFINITION. Which values of `Instr` are instructions: every operand can be written in the operand layout (log 13), and the
constructor is the opcode table's row of the term it carries (log 15). The fifteen legality checks of R117, which depend on the
platform and decide whether a DPAS is refused, are Machine/Legality.lean. -/

namespace Sys2Proof

/-- The operand has an encoding in the model's operand layout: GRF number below `2^16`, DW offset below `2^8` (log 13). -/
def Operand.encodable : Operand → Bool
  | .null => true
  | .reg grf dw _ _ => decide (grf < 65536) && decide (dw < 256)

/-- All four operands are encodable. -/
def Form.encodable (f : Form) : Bool :=
  f.dst.encodable && f.src0.encodable && f.src1.encodable && f.src2.encodable

/-- The `Exec_size` byte is one that no platform takes: bit 3 set, or a size code other than `0b011` and `0b100` (R66). -/
def ExecSize.neverLegal (e : ExecSize) : Bool :=
  e.bit3 == 1 || !(e.sizeCode == 3 || e.sizeCode == 4)

/-- `W` or `A` is the code the source calls "unused" (R71). -/
def Dpas.hasUnusedPrecision (t : Dpas) : Bool :=
  t.w == 0 || t.a == 0

/-- `W` or `A` has no row in the table of R68. -/
def Dpas.hasUnassignedPrecision (t : Dpas) : Bool :=
  (Machine.precisionOfByte t.w).isNone || (Machine.precisionOfByte t.a).isNone

/-- `W` or `A` is `u1` or `s1` (R104). -/
def Dpas.hasOneBit (t : Dpas) : Bool :=
  t.w == 1 || t.w == 2 || t.a == 1 || t.a == 2

/-- `W` or `A` is `tf32` (R104). -/
def Dpas.hasTf32 (t : Dpas) : Bool :=
  t.w == 0x0C || t.a == 0x0C

/-- `W` and `A` are both `tf32` (R104). -/
def Dpas.isTf32 (t : Dpas) : Bool :=
  t.w == 0x0C && t.a == 0x0C

/-- The depth byte is 1, 2 or 4: encodable, and supported by neither platform (R69). -/
def depthIsShallow (sd : Byte) : Bool :=
  sd == 1 || sd == 2 || sd == 4

/-- The operand is of one of the given types. -/
def Operand.hasType (o : Operand) (tys : List OpType) : Bool :=
  match o with
  | .null => false
  | .reg _ _ ty _ => tys.contains ty

/-- An operand of a type for which the source gives no layout: `BF`, `HF`, `DF` for `Dst` and `Src0`, `DF` for `Src1` and
`Src2` (R104). -/
def Form.hasUnsupportedType (f : Form) : Bool :=
  f.dst.hasType [.bf, .hf, .df] || f.src0.hasType [.bf, .hf, .df] || f.src1.hasType [.df] || f.src2.hasType [.df]

/-- The form belongs to an admitted row: none of the rows that refuse by `Exec_size`, `RC` or operand types takes it. -/
def Form.admittedRow (f : Form) : Bool :=
  f.encodable && !f.execSize.neverLegal && f.rc != 0 && !f.hasUnsupportedType

/-- The term is past the rows that refuse by `Exec_size` and by an unused or unassigned precision. -/
def Dpas.pastCodes (t : Dpas) : Bool :=
  t.toForm.encodable && !t.execSize.neverLegal && !t.hasUnusedPrecision && !t.hasUnassignedPrecision

/-- The term is past every row that refuses by precision. -/
def Dpas.pastPrecisions (t : Dpas) : Bool :=
  t.pastCodes && !t.hasOneBit && !t.hasTf32 && (Machine.dpasKind t).isSome

/-- The instruction is well formed as syntax: its operands are encodable and its constructor is its term's row. -/
def Instr.wf : Instr → Bool
  | .dpas t => t.pastCodes && !t.hasOneBit && t.hasTf32 && !t.isTf32
  | .dpasU2U2 f => f.admittedRow
  | .dpasU2S2 f => f.admittedRow
  | .dpasU2U4 f => f.admittedRow
  | .dpasU2S4 f => f.admittedRow
  | .dpasU2U8 f => f.admittedRow
  | .dpasU2S8 f => f.admittedRow
  | .dpasS2U2 f => f.admittedRow
  | .dpasS2S2 f => f.admittedRow
  | .dpasS2U4 f => f.admittedRow
  | .dpasS2S4 f => f.admittedRow
  | .dpasS2U8 f => f.admittedRow
  | .dpasS2S8 f => f.admittedRow
  | .dpasU4U2 f => f.admittedRow
  | .dpasU4S2 f => f.admittedRow
  | .dpasU4U4 f => f.admittedRow
  | .dpasU4S4 f => f.admittedRow
  | .dpasU4U8 f => f.admittedRow
  | .dpasU4S8 f => f.admittedRow
  | .dpasS4U2 f => f.admittedRow
  | .dpasS4S2 f => f.admittedRow
  | .dpasS4U4 f => f.admittedRow
  | .dpasS4S4 f => f.admittedRow
  | .dpasS4U8 f => f.admittedRow
  | .dpasS4S8 f => f.admittedRow
  | .dpasU8U2 f => f.admittedRow
  | .dpasU8S2 f => f.admittedRow
  | .dpasU8U4 f => f.admittedRow
  | .dpasU8S4 f => f.admittedRow
  | .dpasU8U8 f => f.admittedRow
  | .dpasU8S8 f => f.admittedRow
  | .dpasS8U2 f => f.admittedRow
  | .dpasS8S2 f => f.admittedRow
  | .dpasS8U4 f => f.admittedRow
  | .dpasS8S4 f => f.admittedRow
  | .dpasS8U8 f => f.admittedRow
  | .dpasS8S8 f => f.admittedRow
  | .dpasBfBf f => f.admittedRow
  | .dpasHfHf f => f.admittedRow
  | .dpasOneBit t => t.pastCodes && t.hasOneBit
  | .dpasTf32Tf32 f _ => f.encodable && !f.execSize.neverLegal
  | .dpasUnusedPrecision t => t.toForm.encodable && !t.execSize.neverLegal && t.hasUnusedPrecision
  | .dpasUnassignedPrecision t =>
    t.toForm.encodable && !t.execSize.neverLegal && !t.hasUnusedPrecision && t.hasUnassignedPrecision
  | .dpasMixedPrecision t => t.pastCodes && !t.hasOneBit && !t.hasTf32 && (Machine.dpasKind t).isNone
  | .dpasShallowDepth t => t.pastPrecisions && depthIsShallow t.sd
  | .dpasOtherDepth t => t.pastPrecisions && !depthIsShallow t.sd && t.sd != 8
  | .dpasBadRepeatCount t => t.pastPrecisions && t.sd == 8 && t.rc == 0
  | .dpasUnsupportedType t => t.pastPrecisions && t.sd == 8 && t.rc != 0 && t.toForm.hasUnsupportedType
  | .dpasBadExecSize t => t.toForm.encodable && t.execSize.neverLegal

end Sys2Proof
end

