-- ==== Sys2Proof/Decode.lean ====
section
/-! DEFINITION. The decoder and the encoder. The field order, the fields of one byte and the length are the spec's (R60 to R63,
R66, R77); the inside of an operand is open (R64), so the decoder takes an operand layout as its argument, and the layout the
machine runs with is the model's own (log 13). -/

namespace Sys2Proof

/-- Why bytes are no instruction. `unknownOpcode` is the verdict of R60 and R77; the other two are the model's, for a slot that
is not as long as an instruction of the layout (log 13). -/
inductive DecodeReject where
  /-- the first byte is not `0x83` (R60, R71, R77) -/
  | unknownOpcode
  /-- fewer bytes than the instruction has (R63) -/
  | truncated
  /-- more bytes than the instruction has (R63) -/
  | trailingBytes
  deriving DecidableEq, Repr

/-- The open parameters of the byte stream (R7, R63, R64): the byte lengths of the two operand kinds, and `resolve`, which gives
an operand for every field value, so that no field value is judged by the decoder (R77). -/
structure OperandLayout where
  rawBytes   : Nat
  vecBytes   : Nat
  resolveRaw : List Byte → Operand
  resolveVec : List Byte → Operand

/-- The length of a DPAS in bytes (R63). -/
def instrBytes (L : OperandLayout) : Nat :=
  1 + 1 + 3 * L.rawBytes + L.vecBytes + 4

/-- The `Exec_size` byte cut into its fields (R66). -/
def execSizeOfByte (b : Byte) : ExecSize where
  sizeCode := b.extractLsb' 0 3
  bit3     := b.extractLsb' 3 1
  maskCode := b.extractLsb' 4 4

/-- The `Exec_size` byte of its fields (R66). -/
def execSizeByte (e : ExecSize) : Byte :=
  e.maskCode ++ e.bit3 ++ e.sizeCode

/-- `n` bytes from offset `off` on. -/
def bytesAt (bs : List Byte) (off n : Nat) : List Byte :=
  (bs.drop off).take n

/-- The byte at offset `off`; every use is below the length. -/
def byteAt (bs : List Byte) (off : Nat) : Byte :=
  bs.getD off 0

/-- The byte decoder of R77, for a layout `L`: an opcode other than `0x83` is rejected; otherwise the fields are cut in the order
of R61, and the term is answered whatever the field values are. -/
def decodeTerm (L : OperandLayout) (bs : List Byte) : Except DecodeReject Dpas :=
  match bs.head? with
  | none => .error .truncated
  | some op =>
    if op ≠ 0x83 then .error .unknownOpcode
    else if bs.length < instrBytes L then .error .truncated
    else if instrBytes L < bs.length then .error .trailingBytes
    else
      let tail := 2 + 3 * L.rawBytes + L.vecBytes
      .ok { execSize := execSizeOfByte (byteAt bs 1)
            dst  := L.resolveRaw (bytesAt bs 2 L.rawBytes)
            src0 := L.resolveRaw (bytesAt bs (2 + L.rawBytes) L.rawBytes)
            src1 := L.resolveRaw (bytesAt bs (2 + 2 * L.rawBytes) L.rawBytes)
            src2 := L.resolveVec (bytesAt bs (2 + 3 * L.rawBytes) L.vecBytes)
            w := byteAt bs tail, a := byteAt bs (tail + 1)
            sd := byteAt bs (tail + 2), rc := byteAt bs (tail + 3) }

/-- The type code of an operand byte, 1 to 6 (log 13). -/
def opTypeCode : OpType → Byte
  | .d  => 1
  | .ud => 2
  | .f  => 3
  | .bf => 4
  | .hf => 5
  | .df => 6

/-- The type of a type code (log 13). A code that is none of the six reads as `DF`, a type no operand may have (R104), so that
such a field is a term that R117 refuses. -/
def opTypeOfCode (c : Nat) : OpType :=
  match c with
  | 1 => .d
  | 2 => .ud
  | 3 => .f
  | 4 => .bf
  | 5 => .hf
  | _ => .df

/-- The four bytes of an operand in the model's own layout (log 13): a tag (the type code in bits 3..0, the modifier code in bits
7..4, of which 0 is no modifier), the DW offset, and the GRF number, low byte first. Four zero bytes are null. -/
def operandBytes : Operand → List Byte
  | .null => [0, 0, 0, 0]
  | .reg grf dw ty m =>
    [opTypeCode ty + (if m then 0x10 else 0), BitVec.ofNat 8 dw, BitVec.ofNat 8 grf, BitVec.ofNat 8 (grf / 256)]

/-- `resolve` on the model's own layout (log 13), total: every four bytes are an operand. -/
def resolveOperand (bs : List Byte) : Operand :=
  let tag := byteAt bs 0
  let dw := byteAt bs 1
  let lo := byteAt bs 2
  let hi := byteAt bs 3
  if tag = 0 ∧ dw = 0 ∧ lo = 0 ∧ hi = 0 then .null
  else .reg (hi.toNat * 256 + lo.toNat) dw.toNat (opTypeOfCode (tag.toNat % 16)) (decide (0x10 ≤ tag.toNat))

/-- The operand layout of the machine (log 13). -/
def operandLayout : OperandLayout where
  rawBytes   := 4
  vecBytes   := 4
  resolveRaw := resolveOperand
  resolveVec := resolveOperand

/-- The term of a form, a kind and a depth. -/
def Form.withKind (f : Form) (k : Kind) (sd : Byte) : Dpas :=
  { f with w := Machine.kindCodeW k, a := Machine.kindCodeA k, sd := sd }

/-- The term of an admitted row: depth 8. -/
def Form.admitted (f : Form) (k : Kind) : Dpas :=
  f.withKind k 8

/-- The admitted row of a kind (R78: 36 integer rows, the `bf` row, the `hf` row). -/
def kindRow (k : Kind) (f : Form) : Instr :=
  match k with
  | .int .u2 .u2 => .dpasU2U2 f
  | .int .u2 .s2 => .dpasU2S2 f
  | .int .u2 .u4 => .dpasU2U4 f
  | .int .u2 .s4 => .dpasU2S4 f
  | .int .u2 .u8 => .dpasU2U8 f
  | .int .u2 .s8 => .dpasU2S8 f
  | .int .s2 .u2 => .dpasS2U2 f
  | .int .s2 .s2 => .dpasS2S2 f
  | .int .s2 .u4 => .dpasS2U4 f
  | .int .s2 .s4 => .dpasS2S4 f
  | .int .s2 .u8 => .dpasS2U8 f
  | .int .s2 .s8 => .dpasS2S8 f
  | .int .u4 .u2 => .dpasU4U2 f
  | .int .u4 .s2 => .dpasU4S2 f
  | .int .u4 .u4 => .dpasU4U4 f
  | .int .u4 .s4 => .dpasU4S4 f
  | .int .u4 .u8 => .dpasU4U8 f
  | .int .u4 .s8 => .dpasU4S8 f
  | .int .s4 .u2 => .dpasS4U2 f
  | .int .s4 .s2 => .dpasS4S2 f
  | .int .s4 .u4 => .dpasS4U4 f
  | .int .s4 .s4 => .dpasS4S4 f
  | .int .s4 .u8 => .dpasS4U8 f
  | .int .s4 .s8 => .dpasS4S8 f
  | .int .u8 .u2 => .dpasU8U2 f
  | .int .u8 .s2 => .dpasU8S2 f
  | .int .u8 .u4 => .dpasU8U4 f
  | .int .u8 .s4 => .dpasU8S4 f
  | .int .u8 .u8 => .dpasU8U8 f
  | .int .u8 .s8 => .dpasU8S8 f
  | .int .s8 .u2 => .dpasS8U2 f
  | .int .s8 .s2 => .dpasS8S2 f
  | .int .s8 .u4 => .dpasS8U4 f
  | .int .s8 .s4 => .dpasS8S4 f
  | .int .s8 .u8 => .dpasS8U8 f
  | .int .s8 .s8 => .dpasS8S8 f
  | .bf => .dpasBfBf f
  | .hf => .dpasHfHf f

/-- The term an instruction is (R77). -/
def Instr.term : Instr → Dpas
  | .dpas t => t
  | .dpasU2U2 f => f.admitted (.int .u2 .u2)
  | .dpasU2S2 f => f.admitted (.int .u2 .s2)
  | .dpasU2U4 f => f.admitted (.int .u2 .u4)
  | .dpasU2S4 f => f.admitted (.int .u2 .s4)
  | .dpasU2U8 f => f.admitted (.int .u2 .u8)
  | .dpasU2S8 f => f.admitted (.int .u2 .s8)
  | .dpasS2U2 f => f.admitted (.int .s2 .u2)
  | .dpasS2S2 f => f.admitted (.int .s2 .s2)
  | .dpasS2U4 f => f.admitted (.int .s2 .u4)
  | .dpasS2S4 f => f.admitted (.int .s2 .s4)
  | .dpasS2U8 f => f.admitted (.int .s2 .u8)
  | .dpasS2S8 f => f.admitted (.int .s2 .s8)
  | .dpasU4U2 f => f.admitted (.int .u4 .u2)
  | .dpasU4S2 f => f.admitted (.int .u4 .s2)
  | .dpasU4U4 f => f.admitted (.int .u4 .u4)
  | .dpasU4S4 f => f.admitted (.int .u4 .s4)
  | .dpasU4U8 f => f.admitted (.int .u4 .u8)
  | .dpasU4S8 f => f.admitted (.int .u4 .s8)
  | .dpasS4U2 f => f.admitted (.int .s4 .u2)
  | .dpasS4S2 f => f.admitted (.int .s4 .s2)
  | .dpasS4U4 f => f.admitted (.int .s4 .u4)
  | .dpasS4S4 f => f.admitted (.int .s4 .s4)
  | .dpasS4U8 f => f.admitted (.int .s4 .u8)
  | .dpasS4S8 f => f.admitted (.int .s4 .s8)
  | .dpasU8U2 f => f.admitted (.int .u8 .u2)
  | .dpasU8S2 f => f.admitted (.int .u8 .s2)
  | .dpasU8U4 f => f.admitted (.int .u8 .u4)
  | .dpasU8S4 f => f.admitted (.int .u8 .s4)
  | .dpasU8U8 f => f.admitted (.int .u8 .u8)
  | .dpasU8S8 f => f.admitted (.int .u8 .s8)
  | .dpasS8U2 f => f.admitted (.int .s8 .u2)
  | .dpasS8S2 f => f.admitted (.int .s8 .s2)
  | .dpasS8U4 f => f.admitted (.int .s8 .u4)
  | .dpasS8S4 f => f.admitted (.int .s8 .s4)
  | .dpasS8U8 f => f.admitted (.int .s8 .u8)
  | .dpasS8S8 f => f.admitted (.int .s8 .s8)
  | .dpasBfBf f => f.admitted .bf
  | .dpasHfHf f => f.admitted .hf
  | .dpasOneBit t => t
  | .dpasTf32Tf32 f sd => { f with w := 0x0C, a := 0x0C, sd := sd }
  | .dpasUnusedPrecision t => t
  | .dpasUnassignedPrecision t => t
  | .dpasMixedPrecision t => t
  | .dpasShallowDepth t => t
  | .dpasOtherDepth t => t
  | .dpasBadRepeatCount t => t
  | .dpasUnsupportedType t => t
  | .dpasBadExecSize t => t

/-- The row of the opcode table a term belongs to: the first row of refused forms that takes it, in the order of the checks of
R117, else the admitted row of its kind, else (one precision `tf32` and the other not) the generic row (log 15). -/
def Instr.ofTerm (t : Dpas) : Instr :=
  if t.execSize.neverLegal then .dpasBadExecSize t
  else if t.hasUnusedPrecision then .dpasUnusedPrecision t
  else if t.hasUnassignedPrecision then .dpasUnassignedPrecision t
  else if t.hasOneBit then .dpasOneBit t
  else if t.isTf32 then .dpasTf32Tf32 t.toForm t.sd
  else if t.hasTf32 then .dpas t
  else
    match Machine.dpasKind t with
    | none => .dpasMixedPrecision t
    | some k =>
      if depthIsShallow t.sd then .dpasShallowDepth t
      else if t.sd ≠ 8 then .dpasOtherDepth t
      else if t.rc = 0 then .dpasBadRepeatCount t
      else if t.toForm.hasUnsupportedType then .dpasUnsupportedType t
      else kindRow k t.toForm

/-- The instruction that the bytes of one program slot are. -/
def decode (bs : List Byte) : Except DecodeReject Instr :=
  (decodeTerm operandLayout bs).map Instr.ofTerm

/-- The bytes of a term, in the field order of R61. -/
def encodeTerm (t : Dpas) : List Byte :=
  0x83 :: execSizeByte t.execSize ::
    (operandBytes t.dst ++ operandBytes t.src0 ++ operandBytes t.src1 ++ operandBytes t.src2 ++ [t.w, t.a, t.sd, t.rc])

/-- The bytes of an instruction. -/
def encode (i : Instr) : List Byte :=
  encodeTerm i.term

/-- The `n` bytes of a number, the lowest first. -/
def bytesOfNat (n w : Nat) : List Byte :=
  (List.range n).map fun i => BitVec.ofNat 8 (w >>> (8 * i))

/-- The bytes of the instruction whose opcode-table bits are `w`: `nbits` of them, and every bit above is 0. -/
def tableBytes (nbits w : Nat) : List Byte :=
  bytesOfNat (instrBytes operandLayout) (w % 2 ^ nbits)

/-- What the decoder reads from the instruction whose opcode-table bits are `w`. -/
def decodeTableWord (nbits w : Nat) : Option Instr :=
  (decode (tableBytes nbits w)).toOption

/-- The mnemonic of a term with its four suffixes, `DPAS.W.A.SD.RC` (R73); none where `W` or `A` has no text format. -/
def dpasText (t : Dpas) : Option String :=
  match Machine.precisionOfByte t.w, Machine.precisionOfByte t.a with
  | some pw, some pa =>
    some ("DPAS." ++ Machine.precisionText pw ++ "." ++ Machine.precisionText pa ++ "." ++
      toString t.sd.toNat ++ "." ++ toString t.rc.toNat)
  | _, _ => none

end Sys2Proof
end

