-- ==== Sys2Proof/Machine/State.lean ====
section
/-! DEFINITION. The state of the machine (R33) with the parameters of a run, the reasons a step can stop (R181, R182), and the
state after reset (R32). -/

namespace Sys2Proof.Machine

/-- Why a run of a legal instruction goes wrong (R182). -/
inductive Fault where
  /-- a source footprint holds a dword that bears the mark `unwritten` (R126); raised by the 38 admitted rows and the generic
  row; safe: the chip has some value there -/
  | unwrittenRegister
  deriving DecidableEq, Repr

/-- Why an instruction has no meaning in the model (R181); all are safe: the chip may execute the instruction. -/
inductive Refusal where
  /-- an instruction with no meaning yet, rejected by name in `exec`; safe -/
  | notModelled (mnemonic : String)
  /-- the size code is not the platform's, or bit 3 of `Exec_size` is set (R66); raised by every DPAS row; safe -/
  | badExecSize
  /-- `W` or `A` is "unused", unassigned or above `0x0F` (R68, R71); raised by the generic row and the two rows of such codes; safe -/
  | badPrecision
  /-- `W` or `A` is `u1`, `s1` or `tf32` (R104); raised by the generic row and the rows of these codes; safe -/
  | unsupportedPrecision
  /-- integer with float, or `bf` with `hf` (R102); raised by the generic row and the mixed-precision row; safe -/
  | precisionMismatch
  /-- `SD` is not 1, 2, 4 or 8 (R69); raised by the generic row and the other-depth row; safe -/
  | badDepth
  /-- `SD` is 1, 2 or 4 (R104); raised by the generic row and the depth-1-2-4 row; safe -/
  | unsupportedDepth
  /-- `RC = 0` or `RC > RC_MAX` (R70); raised by every DPAS row; safe -/
  | badRepeatCount
  /-- `Dst`, `Src1` or `Src2` is null (R109); raised by every DPAS row; safe -/
  | nullOperand
  /-- a modifier stands on a source (R76); raised by every DPAS row; safe -/
  | sourceModifier
  /-- `Dst` or `Src0` of type BF, HF, DF, or `Src1` or `Src2` of type DF (R104); raised by the generic row and the row of such types; safe -/
  | unsupportedType
  /-- the operand types contradict the kind (R103); raised by every DPAS row; safe -/
  | typeCombination
  /-- an operand is not aligned (R110); raised by every DPAS row; safe -/
  | misaligned
  /-- a footprint reaches past the last GRF (R112); raised by every DPAS row; safe -/
  | outOfRange
  /-- `Dst` overlaps a source other than an identical `Src0` (R113); raised by every DPAS row; safe -/
  | overlap
  /-- the platform's `PLATFORM_EXTRA_OK` is false (R103); raised by every DPAS row; safe -/
  | platformRestriction
  /-- the slot's first byte is not `0x83` (R60, R77); raised by the fetch; safe -/
  | unknownOpcode
  /-- the slot is shorter than an instruction (log 13); raised by the fetch; safe -/
  | truncated
  /-- the slot is longer than an instruction (log 13); raised by the fetch; safe -/
  | trailingBytes
  /-- the run has ended, and there is nothing to execute (R205, log 17); raised by the step; safe -/
  | runEnded
  /-- `pc` is above the length of the program, which no run reaches (log 17); raised by the step; safe -/
  | pcPastEnd
  deriving DecidableEq, Repr

/-- The outcome component of the state (R33). -/
inductive RunOutcome where
  | running
  | ended
  | refused (reason : Refusal)
  | faulted (reason : Fault)
  deriving DecidableEq, Repr

/-- One dword of the register file: a 32-bit value or the mark `unwritten` (R31). -/
inductive Dw where
  | unwritten
  | val (w : Word)
  deriving DecidableEq, Repr

/-- The general register file in the 1-D view (R21): pairs of a flat DW index and a dword. The canonical form has rising
indices and no entry equal to what an unlisted dword reads as. -/
abbrev RegFile := List (Nat × Dw)

/-- What an unlisted dword of the register file reads as: its value at reset, 0 (log 9). -/
def RegFile.unlisted : Dw := .val 0

/-- The parameters of a run (R7, R33). No step changes them (log 2). -/
structure Params where
  /-- `PLATFORM` (R6) -/
  platform        : Platform
  /-- `NGRF` (R20) -/
  ngrf            : Nat
  /-- `RC_MAX` (R70) -/
  rcMax           : Nat
  /-- `ChEn` for `M1` .. `M8` (R26) -/
  chEn            : ChannelEnables
  /-- the terms for which `PLATFORM_EXTRA_OK` is false (R103, log 8) -/
  platformRefuses : List Dpas
  deriving DecidableEq, Repr

/-- The state: RF with its marks, `pc`, and the outcome (R33), and beside them what is fixed for the run, the parameters and
the program, each slot of which holds the bytes of one instruction (R24, logs 1 and 2). -/
structure State where
  params  : Params
  prog    : List (List Byte)
  rf      : RegFile
  pc      : Nat
  outcome : RunOutcome
  deriving DecidableEq, Repr

/-- The parameters after reset (logs 3, 4, 5, 6, 8). -/
def Params.atReset : Params where
  platform        := .xehp
  ngrf            := 128
  rcMax           := 8
  chEn            := Config.chEnAtReset
  platformRefuses := []

/-- The state after reset (R32, R200, R201): `pc = 0`, the run is `running`, no program is placed (log 1), and every dword of
the register file holds 0 (log 9). -/
def State.reset : State where
  params  := Params.atReset
  prog    := []
  rf      := []
  pc      := 0
  outcome := .running

end Sys2Proof.Machine
end

