-- ==== Sys2Proof/Machine/Flags.lean ====
section
/-! DEFINITION. DPAS reads and writes no flag, condition code or predicate (R25, R128), so there is no flag computation. The one
per-channel control is the execution mask of the `Exec_size` byte (R26, R67, R121). -/

namespace Sys2Proof.Machine

/-- A code of the table of R67 whose name ends in `_NM`: `0b1000` and above. -/
def maskIsNm (code : BitVec 4) : Bool :=
  decide (8 ≤ code.toNat)

/-- The channels a non-`_NM` code enables (R26): codes `0b0000` to `0b0111` are `M1` to `M8` (R67). -/
def maskRow (c : ChannelEnables) (code : BitVec 4) : BitVec 16 :=
  match code.toNat with
  | 0 => c.m1
  | 1 => c.m2
  | 2 => c.m3
  | 3 => c.m4
  | 4 => c.m5
  | 5 => c.m6
  | 6 => c.m7
  | _ => c.m8

/-- `ChEn(mask_code, i)` (R26): an `_NM` code enables every channel (log 7); the others are the run's parameter (log 6). -/
def channelEnabled (p : Params) (code : BitVec 4) (i : Nat) : Bool :=
  maskIsNm code || (maskRow p.chEn code).getLsbD i

end Sys2Proof.Machine
end

