-- ==== Sys2Proof/Machine/Ops.lean ====
section
/-! DEFINITION. The named operations on the register file, the program and the outcome. There is no exception to take and none
to return from (R180, R187, R188): a refused or faulted instruction stops the run where it stands. -/

namespace Sys2Proof.Machine

/-- The dword holds a value (R31). -/
def Dw.isWritten : Dw → Bool
  | .unwritten => false
  | .val _ => true

/-- The value of a dword. A DPAS takes it only of dwords it has found written (R126). -/
def Dw.word : Dw → Word
  | .unwritten => 0
  | .val w => w

/-- The dword at a flat index (R21). -/
def RegFile.read : RegFile → Nat → Dw
  | [], _ => RegFile.unlisted
  | (x, v) :: rest, y => if x = y then v else RegFile.read rest y

/-- The register file with a flat index unlisted. -/
def RegFile.unlist (rf : RegFile) (x : Nat) : RegFile :=
  rf.filter fun c => c.1 ≠ x

/-- The register file with a pair put before the first greater index. -/
def RegFile.place (x : Nat) (v : Dw) : RegFile → RegFile
  | [] => [(x, v)]
  | c :: rest => if x < c.1 then (x, v) :: c :: rest else c :: RegFile.place x v rest

/-- `RF1D[x] <- v` (R10), in canonical form. -/
def RegFile.write (rf : RegFile) (x : Nat) (v : Dw) : RegFile :=
  if v = RegFile.unlisted then RegFile.unlist rf x else RegFile.place x v (RegFile.unlist rf x)

/-- All writes of a DPAS together (R119, last loop; R125). -/
def RegFile.writeAll (rf : RegFile) (cells : List (Nat × Dw)) : RegFile :=
  cells.foldl (fun acc c => RegFile.write acc c.1 c.2) rf

/-- The canonical form: rising indices, and no entry equal to what an unlisted dword reads as. -/
abbrev RegFile.wf (rf : RegFile) : Prop :=
  List.Pairwise (fun c d => c.1 < d.1) rf ∧ ∀ c ∈ rf, c.2 ≠ RegFile.unlisted

/-- A DPAS completes: its dwords are written together (R125) and `pc <- pc + 1` (R127). -/
def State.retire (s : State) (cells : List (Nat × Dw)) : State :=
  { s with rf := RegFile.writeAll s.rf cells, pc := s.pc + 1 }

/-- The run ends when `pc = L`, the length of the program (R205). -/
def State.settle (s : State) : State :=
  if s.pc = s.prog.length then { s with outcome := .ended } else s

/-- The refusal of a decoder verdict (R181). -/
def refusalOfReject : DecodeReject → Refusal
  | .unknownOpcode => .unknownOpcode
  | .truncated     => .truncated
  | .trailingBytes => .trailingBytes

/-- What stands at `pc`. -/
inductive Fetched where
  | instr (i : Instr)
  | reject (r : Refusal)
  | endOfProgram
  | pastEnd
  deriving DecidableEq, Repr

/-- The instruction `prog[pc]` (R24), decoded from its slot. -/
def State.fetch (s : State) : Fetched :=
  match s.prog[s.pc]? with
  | some bs =>
    match decode bs with
    | .ok i => .instr i
    | .error e => .reject (refusalOfReject e)
  | none => if s.pc = s.prog.length then .endOfProgram else .pastEnd

/-- The bytes of one instruction placed in the slot at `pc`, and the run set running: what a load from outside does (log 1). -/
def State.placeSlot (s : State) (bs : List Byte) : State :=
  { s with
    prog := (s.prog ++ List.replicate (s.pc + 1 - s.prog.length) []).set s.pc bs
    outcome := .running }

end Sys2Proof.Machine
end

