-- ==== Sys2Proof/Machine/Operands.lean ====
section
/-! DEFINITION. Places, footprints and layouts of the four operands (R109 to R116), and the elements a stage takes from
`Src1` and `Src2` (R42, R119, R142). -/

namespace Sys2Proof.Machine

/-- `GRF_DW`, the dwords of one GRF, which is also `N`, the channel count (R6). -/
def grfDw : Platform → Nat
  | .xehp => 8
  | .pvc  => 16

/-- The size code of the platform's execution size (R66). -/
def platformSizeCode : Platform → BitVec 3
  | .xehp => 0b011
  | .pvc  => 0b100

/-- `ELEM_ORDER` (R42, D4; log 10). -/
def elemOrder : ElemOrder := .lsbFirst

/-- The lowest bit of element `e` of `P` bits in a dword, in an element order (R42). -/
def elemLowBit (o : ElemOrder) (P e : Nat) : Nat :=
  match o with
  | .lsbFirst => e * P
  | .msbFirst => 32 - (e + 1) * P

/-- `elem(P, dw, e)` (R42): element `e` of precision `P` bits, as an unsigned number (R9). -/
def elem (P : Nat) (dw : Word) (e : Nat) : Nat :=
  (dw.toNat >>> elemLowBit elemOrder P e) % 2 ^ P

/-- The flat DW index where an operand starts (R64); a null operand names none, and its callers do not ask. A DW offset of
`GRF_DW` or more, of which the spec says nothing, is carried into a later GRF: the model's own choice (DESIGN CHOICE, unsafe,
log 23). -/
def operandFlat (p : Params) : Operand → Nat
  | .null => 0
  | .reg grf dw _ _ => grf * grfDw p.platform + dw

/-- The GRF where an operand starts (R109): `r20` with DW offset 8 on XEHP starts in `r21` (DESIGN CHOICE, log 23). -/
def operandGrf (p : Params) (o : Operand) : Nat :=
  operandFlat p o / grfDw p.platform

/-- A range of flat dwords: `len` of them from `start` on. -/
structure Span where
  start : Nat
  len   : Nat
  deriving DecidableEq, Repr

/-- The dwords of a span. -/
def spanCells (sp : Span) : List Nat :=
  List.range' sp.start sp.len

/-- Two spans share no dword. -/
def spansDisjoint (x y : Span) : Bool :=
  decide (x.start + x.len ≤ y.start) || decide (y.start + y.len ≤ x.start)

/-- The span of `n` whole GRFs from the one an operand starts in. -/
def grfSpan (p : Params) (o : Operand) (n : Nat) : Span where
  start := operandGrf p o * grfDw p.platform
  len   := n * grfDw p.platform

/-- The footprint of `Dst` (R111). -/
def dstSpan (p : Params) (t : Dpas) : Span :=
  grfSpan p t.dst t.rc.toNat

/-- The footprint of `Src0` when it is not null (R111). -/
def src0Span (p : Params) (t : Dpas) : Span :=
  grfSpan p t.src0 t.rc.toNat

/-- The footprint of `Src1` (R111). -/
def src1Span (p : Params) (k : Kind) (t : Dpas) : Span :=
  grfSpan p t.src1 (kindG1 k t.sd.toNat)

/-- The footprint of `Src2` (R111). -/
def src2Span (p : Params) (k : Kind) (t : Dpas) : Span where
  start := operandFlat p t.src2
  len   := t.rc.toNat * kindAlign2 k t.sd.toNat

/-- The dwords a DPAS reads: the footprints of `Src0` unless it is null, of `Src1` and of `Src2` (R23, R119). -/
def readCells (p : Params) (k : Kind) (t : Dpas) : List Nat :=
  (if t.src0 = .null then [] else spanCells (src0Span p t)) ++
    spanCells (src1Span p k t) ++ spanCells (src2Span p k t)

/-- The value of dword `j` of GRF `g` (R10). -/
def rfWord (p : Params) (rf : RegFile) (g j : Nat) : Word :=
  (RegFile.read rf (g * grfDw p.platform + j)).word

/-- `C[r][i]` (R114), or zero when `Src0` is null (R109, R169; log 20). -/
def accIn (p : Params) (t : Dpas) (rf : RegFile) (r i : Nat) : Word :=
  if t.src0 = .null then 0 else rfWord p rf (operandGrf p t.src0 + r) i

/-- The elements of B that stage `d` uses in channel `i` (R115, R119). -/
def stageB (p : Params) (k : Kind) (t : Dpas) (rf : RegFile) (d i : Nat) : List Nat :=
  let m := d / kindS1opc k
  let n := d % kindS1opc k * kindOps k
  (List.range (kindOps k)).map fun j => elem (kindP1 k) (rfWord p rf (operandGrf p t.src1 + m) i) (n + j)

/-- `elemA(e)` (R116): element `e` of `Src2`, dense in the 1-D view. -/
def elemA (p : Params) (k : Kind) (t : Dpas) (rf : RegFile) (e : Nat) : Nat :=
  let perDw := 32 / kindP2 k
  elem (kindP2 k) (RegFile.read rf (operandFlat p t.src2 + e / perDw)).word (e % perDw)

/-- The elements of A that stage `d` of row `r` uses: `k .. k + OPS - 1` with `k = (r * SD + d) * OPS` (R142). -/
def stageA (p : Params) (k : Kind) (t : Dpas) (rf : RegFile) (r d : Nat) : List Nat :=
  (List.range (kindOps k)).map fun j => elemA p k t rf ((r * t.sd.toNat + d) * kindOps k + j)

end Sys2Proof.Machine
end

