-- ==== Sys2Proof/Machine/Legality.lean ====
section
/-! DEFINITION. The fifteen checks of R117, one definition each in the order of its table, and the verdict on a term: the reason
of the first check that fails, or the kind. -/

namespace Sys2Proof.Machine

/-- Check 1 (R66): the platform's size code, bit 3 zero. -/
def execSizeOk (p : Params) (t : Dpas) : Bool :=
  t.execSize.sizeCode == platformSizeCode p.platform && t.execSize.bit3 == 0

/-- Check 2 (R68, R71): both precision bytes have a row with a name. -/
def precisionRowsOk (t : Dpas) : Bool :=
  (precisionOfByte t.w).isSome && (precisionOfByte t.a).isSome

/-- The precisions with semantics (R104). -/
def precisionSupported : Option Precision → Bool
  | some .u1 | some .s1 | some .tf32 => false
  | _ => true

/-- Check 3 (R104): neither precision is `u1`, `s1` or `tf32`. -/
def precisionsSupportedOk (t : Dpas) : Bool :=
  precisionSupported (precisionOfByte t.w) && precisionSupported (precisionOfByte t.a)

/-- Check 5 (R69): the depth is encodable. -/
def depthByteOk (t : Dpas) : Bool :=
  depthIsShallow t.sd || t.sd == 8

/-- Check 6 (R104): the depth is 8. -/
def depthSupportedOk (t : Dpas) : Bool :=
  t.sd == 8

/-- Check 7 (R70): `1 <= RC <= RC_MAX`. -/
def repeatOk (p : Params) (t : Dpas) : Bool :=
  decide (1 ≤ t.rc.toNat) && decide (t.rc.toNat ≤ p.rcMax)

/-- Check 8 (R109): `Dst`, `Src1` and `Src2` are not null. -/
def nullOk (t : Dpas) : Bool :=
  t.dst != .null && t.src1 != .null && t.src2 != .null

/-- A modifier stands on the operand (R76). -/
def operandModified : Operand → Bool
  | .null => false
  | .reg _ _ _ m => m

/-- Check 9 (R76): no modifier on any operand. -/
def modifierOk (t : Dpas) : Bool :=
  !(operandModified t.dst || operandModified t.src0 || operandModified t.src1 || operandModified t.src2)

/-- Check 10 (R103, R104): no operand of a type for which the source gives no layout. -/
def typesSupportedOk (t : Dpas) : Bool :=
  !t.toForm.hasUnsupportedType

/-- The types a kind admits for `Dst` and `Src0` (R103). -/
def accTypes : Kind → List OpType
  | .int _ _ => [.d, .ud]
  | .bf | .hf => [.f]

/-- Check 11 (R103): the operand types agree with the kind. -/
def typesOk (k : Kind) (t : Dpas) : Bool :=
  t.dst.hasType (accTypes k) && (t.src0 == .null || t.src0.hasType (accTypes k)) &&
    t.src1.hasType [.d, .ud] && t.src2.hasType [.d, .ud]

/-- The operand starts at DW 0 of a GRF (R110). -/
def grfAligned (p : Params) (o : Operand) : Bool :=
  operandFlat p o % grfDw p.platform == 0

/-- Check 12 (R110, R44). -/
def alignOk (p : Params) (k : Kind) (t : Dpas) : Bool :=
  grfAligned p t.dst && grfAligned p t.src0 && grfAligned p t.src1 &&
    operandFlat p t.src2 % kindAlign2 k t.sd.toNat == 0

/-- Check 13 (R112): every footprint lies inside the register file. -/
def rangeOk (p : Params) (k : Kind) (t : Dpas) : Bool :=
  decide (operandGrf p t.dst + t.rc.toNat ≤ p.ngrf) &&
    (t.src0 == .null || decide (operandGrf p t.src0 + t.rc.toNat ≤ p.ngrf)) &&
    decide (operandGrf p t.src1 + kindG1 k t.sd.toNat ≤ p.ngrf) &&
    decide (operandFlat p t.src2 + t.rc.toNat * kindAlign2 k t.sd.toNat ≤ p.ngrf * grfDw p.platform)

/-- Check 14 (R113): `Dst` is disjoint from `Src1` and `Src2`, and disjoint from `Src0` or identical to it. -/
def overlapOk (p : Params) (k : Kind) (t : Dpas) : Bool :=
  spansDisjoint (dstSpan p t) (src1Span p k t) && spansDisjoint (dstSpan p t) (src2Span p k t) &&
    (t.src0 == .null || src0Span p t == dstSpan p t || spansDisjoint (dstSpan p t) (src0Span p t))

/-- Check 15 (R103): `PLATFORM_EXTRA_OK` (log 8). -/
def platformOk (p : Params) (t : Dpas) : Bool :=
  !p.platformRefuses.contains t

/-- Checks 5 to 15 with their reasons, in order. -/
def kindChecks (p : Params) (k : Kind) (t : Dpas) : List (Bool × Refusal) :=
  [(depthByteOk t, .badDepth),
   (depthSupportedOk t, .unsupportedDepth),
   (repeatOk p t, .badRepeatCount),
   (nullOk t, .nullOperand),
   (modifierOk t, .sourceModifier),
   (typesSupportedOk t, .unsupportedType),
   (typesOk k t, .typeCombination),
   (alignOk p k t, .misaligned),
   (rangeOk p k t, .outOfRange),
   (overlapOk p k t, .overlap),
   (platformOk p t, .platformRestriction)]

/-- The reason of the first check that fails. -/
def firstFailing (checks : List (Bool × Refusal)) : Option Refusal :=
  (checks.find? fun c => !c.1).map (·.2)

/-- The verdict of R117: the kind of a well-formed term, or the reason of the first check that fails. -/
def judge (p : Params) (t : Dpas) : Except Refusal Kind :=
  if !execSizeOk p t then .error .badExecSize
  else if !precisionRowsOk t then .error .badPrecision
  else if !precisionsSupportedOk t then .error .unsupportedPrecision
  else
    match dpasKind t with
    | none => .error .precisionMismatch
    | some k =>
      match firstFailing (kindChecks p k t) with
      | some r => .error r
      | none => .ok k

end Sys2Proof.Machine
end

