-- ==== Sys2Proof/Machine/Stage.lean ====
section
/-! DEFINITION. One systolic stage (R120): the integer stage with its element values and dot products (R141 to R146, R148), and
the float stage, which is an open function of its five operands (R166). -/

namespace Sys2Proof.Machine

/-- `val(p, x)` (R141): the value of a raw field of `P` bits. -/
def intVal (q : IntPrec) (x : Nat) : Int :=
  if intPrecSigned q && x.testBit (intPrecBits q - 1) then (x : Int) - 2 ^ intPrecBits q else (x : Int)

/-- `dot4(b, a)` and `dot8(b, a)` (R144, R145), on the four or eight raw fields of a stage: an exact integer. -/
def dotOps (w a : IntPrec) (bs as : List Nat) : Int :=
  (List.zipWith (fun b x => intVal w b * intVal a x) bs as).sum

/-- `STAGE(int, W, A, acc, b, a)` (R146): the accumulator wraps mod `2^32` (R148, D5; log 11). -/
def intStage (w a : IntPrec) (acc : Word) (bs as : List Nat) : Word :=
  BitVec.ofInt 32 ((acc.toNat : Int) + dotOps w a bs as)

/-- `STAGE(p, W, A, acc, b, a)` for a float kind with stage function `f` (R166, R167 b). -/
def floatStage (f : Word → Half → Half → Half → Half → Word) (acc : Word) (bs as : List Nat) : Word :=
  f acc (BitVec.ofNat 16 (bs.getD 0 0)) (BitVec.ofNat 16 (bs.getD 1 0))
    (BitVec.ofNat 16 (as.getD 0 0)) (BitVec.ofNat 16 (as.getD 1 0))

/-- The stage function of a kind (R120). -/
def stage (k : Kind) (acc : Word) (bs as : List Nat) : Word :=
  match k with
  | .int w a => intStage w a acc bs as
  | .bf => floatStage Config.fdot2accBf acc bs as
  | .hf => floatStage Config.fdot2accHf acc bs as

end Sys2Proof.Machine
end

