-- ==== Sys2Proof/Machine/Dpas.lean ====
section
/-! DEFINITION. The meaning of a DPAS term (R119), shared by every row of the opcode table, and the generic row's. -/

namespace Sys2Proof.Machine

/-- The accumulator of row `r`, channel `i` after the stages `0 .. n - 1` (R119, R120). -/
def accAfter (p : Params) (k : Kind) (t : Dpas) (rf : RegFile) (r i n : Nat) : Word :=
  (List.range n).foldl (fun acc d => stage k acc (stageB p k t rf d i) (stageA p k t rf r d)) (accIn p t rf r i)

/-- `D[r][i]`: the output of the last stage (R119, R120). -/
def resultAt (p : Params) (k : Kind) (t : Dpas) (rf : RegFile) (r i : Nat) : Word :=
  accAfter p k t rf r i t.sd.toNat

/-- The dwords of `Dst` that row `r` writes, with their new values: the enabled channels (R121). -/
def rowCells (p : Params) (k : Kind) (t : Dpas) (rf : RegFile) (r : Nat) : List (Nat × Dw) :=
  ((List.range (grfDw p.platform)).filter fun i => channelEnabled p t.execSize.maskCode i).map fun i =>
    ((operandGrf p t.dst + r) * grfDw p.platform + i, .val (resultAt p k t rf r i))

/-- `NEW` of R119: the dwords a DPAS writes. All of them are computed from the register file before the instruction (R125). -/
def newCells (p : Params) (k : Kind) (t : Dpas) (rf : RegFile) : List (Nat × Dw) :=
  (List.range t.rc.toNat).flatMap fun r => rowCells p k t rf r

/-- Every dword of the source footprints holds a value (R126). -/
def sourcesWritten (p : Params) (k : Kind) (t : Dpas) (rf : RegFile) : Bool :=
  (readCells p k t).all fun x => (RegFile.read rf x).isWritten

/-- `exec_DPAS` (R119): refused when ill formed (R117), a fault when a source dword is `unwritten` (R126), else one atomic step. -/
def runDpas (t : Dpas) (s : State) : Host.Outcome State Fault Refusal :=
  match judge s.params t with
  | .error r => .refused r
  | .ok k =>
    if sourcesWritten s.params k t s.rf then .next (s.retire (newCells s.params k t s.rf))
    else .fault .unwrittenRegister

/-- A term of a row of refused forms (R71, R104): refused for the first check of R117 it fails. The reason `why` is the row's own,
for a term that the row does not hold. -/
def stopDpas (t : Dpas) (why : Refusal) (s : State) : Host.Outcome State Fault Refusal :=
  match judge s.params t with
  | .error r => .refused r
  | .ok _ => .refused why

/-- `DPAS`, the generic row (R119). -/
def execDpas (t : Dpas) (s : State) : Host.Outcome State Fault Refusal :=
  runDpas t s

end Sys2Proof.Machine
end

