-- ==== Sys2Proof/Machine/FloatDpas.lean ====
section
/-! DEFINITION. The two rows of float DPAS (R160, R166). -/

namespace Sys2Proof.Machine

/-- `DPAS.bf.bf` (R166): the stage is `FDOT2ACC_bf`, a free value (log 12). -/
def execDpasBfBf (f : Form) (s : State) : Host.Outcome State Fault Refusal :=
  runDpas (f.admitted .bf) s

/-- `DPAS.hf.hf` (R166): the stage is `FDOT2ACC_hf`, a free value (log 12). -/
def execDpasHfHf (f : Form) (s : State) : Host.Outcome State Fault Refusal :=
  runDpas (f.admitted .hf) s

end Sys2Proof.Machine
end

