-- ==== Sys2Proof/Machine/IntegerDpas.lean ====
section
/-! DEFINITION. The 36 rows of integer DPAS (R102, R146): `DPAS.W.A` fixes the two element precisions and `SD = 8`; the rest is
the shared meaning of R119. -/

namespace Sys2Proof.Machine

/-- `DPAS.u2.u2`: `Src1` elements `u2`, `Src2` elements `u2` (R146, R150). -/
def execDpasU2U2 (f : Form) (s : State) : Host.Outcome State Fault Refusal :=
  runDpas (f.admitted (.int .u2 .u2)) s

/-- `DPAS.u2.s2`: `Src1` elements `u2`, `Src2` elements `s2` (R146, R150). -/
def execDpasU2S2 (f : Form) (s : State) : Host.Outcome State Fault Refusal :=
  runDpas (f.admitted (.int .u2 .s2)) s

/-- `DPAS.u2.u4`: `Src1` elements `u2`, `Src2` elements `u4` (R146, R150). -/
def execDpasU2U4 (f : Form) (s : State) : Host.Outcome State Fault Refusal :=
  runDpas (f.admitted (.int .u2 .u4)) s

/-- `DPAS.u2.s4`: `Src1` elements `u2`, `Src2` elements `s4` (R146, R150). -/
def execDpasU2S4 (f : Form) (s : State) : Host.Outcome State Fault Refusal :=
  runDpas (f.admitted (.int .u2 .s4)) s

/-- `DPAS.u2.u8`: `Src1` elements `u2`, `Src2` elements `u8` (R146, R150). -/
def execDpasU2U8 (f : Form) (s : State) : Host.Outcome State Fault Refusal :=
  runDpas (f.admitted (.int .u2 .u8)) s

/-- `DPAS.u2.s8`: `Src1` elements `u2`, `Src2` elements `s8` (R146, R150). -/
def execDpasU2S8 (f : Form) (s : State) : Host.Outcome State Fault Refusal :=
  runDpas (f.admitted (.int .u2 .s8)) s

/-- `DPAS.s2.u2`: `Src1` elements `s2`, `Src2` elements `u2` (R146, R150). -/
def execDpasS2U2 (f : Form) (s : State) : Host.Outcome State Fault Refusal :=
  runDpas (f.admitted (.int .s2 .u2)) s

/-- `DPAS.s2.s2`: `Src1` elements `s2`, `Src2` elements `s2` (R146, R150). -/
def execDpasS2S2 (f : Form) (s : State) : Host.Outcome State Fault Refusal :=
  runDpas (f.admitted (.int .s2 .s2)) s

/-- `DPAS.s2.u4`: `Src1` elements `s2`, `Src2` elements `u4` (R146, R150). -/
def execDpasS2U4 (f : Form) (s : State) : Host.Outcome State Fault Refusal :=
  runDpas (f.admitted (.int .s2 .u4)) s

/-- `DPAS.s2.s4`: `Src1` elements `s2`, `Src2` elements `s4` (R146, R150). -/
def execDpasS2S4 (f : Form) (s : State) : Host.Outcome State Fault Refusal :=
  runDpas (f.admitted (.int .s2 .s4)) s

/-- `DPAS.s2.u8`: `Src1` elements `s2`, `Src2` elements `u8` (R146, R150). -/
def execDpasS2U8 (f : Form) (s : State) : Host.Outcome State Fault Refusal :=
  runDpas (f.admitted (.int .s2 .u8)) s

/-- `DPAS.s2.s8`: `Src1` elements `s2`, `Src2` elements `s8` (R146, R150). -/
def execDpasS2S8 (f : Form) (s : State) : Host.Outcome State Fault Refusal :=
  runDpas (f.admitted (.int .s2 .s8)) s

/-- `DPAS.u4.u2`: `Src1` elements `u4`, `Src2` elements `u2` (R146, R150). -/
def execDpasU4U2 (f : Form) (s : State) : Host.Outcome State Fault Refusal :=
  runDpas (f.admitted (.int .u4 .u2)) s

/-- `DPAS.u4.s2`: `Src1` elements `u4`, `Src2` elements `s2` (R146, R150). -/
def execDpasU4S2 (f : Form) (s : State) : Host.Outcome State Fault Refusal :=
  runDpas (f.admitted (.int .u4 .s2)) s

/-- `DPAS.u4.u4`: `Src1` elements `u4`, `Src2` elements `u4` (R146, R150). -/
def execDpasU4U4 (f : Form) (s : State) : Host.Outcome State Fault Refusal :=
  runDpas (f.admitted (.int .u4 .u4)) s

/-- `DPAS.u4.s4`: `Src1` elements `u4`, `Src2` elements `s4` (R146, R150). -/
def execDpasU4S4 (f : Form) (s : State) : Host.Outcome State Fault Refusal :=
  runDpas (f.admitted (.int .u4 .s4)) s

/-- `DPAS.u4.u8`: `Src1` elements `u4`, `Src2` elements `u8` (R146, R150). -/
def execDpasU4U8 (f : Form) (s : State) : Host.Outcome State Fault Refusal :=
  runDpas (f.admitted (.int .u4 .u8)) s

/-- `DPAS.u4.s8`: `Src1` elements `u4`, `Src2` elements `s8` (R146, R150). -/
def execDpasU4S8 (f : Form) (s : State) : Host.Outcome State Fault Refusal :=
  runDpas (f.admitted (.int .u4 .s8)) s

/-- `DPAS.s4.u2`: `Src1` elements `s4`, `Src2` elements `u2` (R146, R150). -/
def execDpasS4U2 (f : Form) (s : State) : Host.Outcome State Fault Refusal :=
  runDpas (f.admitted (.int .s4 .u2)) s

/-- `DPAS.s4.s2`: `Src1` elements `s4`, `Src2` elements `s2` (R146, R150). -/
def execDpasS4S2 (f : Form) (s : State) : Host.Outcome State Fault Refusal :=
  runDpas (f.admitted (.int .s4 .s2)) s

/-- `DPAS.s4.u4`: `Src1` elements `s4`, `Src2` elements `u4` (R146, R150). -/
def execDpasS4U4 (f : Form) (s : State) : Host.Outcome State Fault Refusal :=
  runDpas (f.admitted (.int .s4 .u4)) s

/-- `DPAS.s4.s4`: `Src1` elements `s4`, `Src2` elements `s4` (R146, R150). -/
def execDpasS4S4 (f : Form) (s : State) : Host.Outcome State Fault Refusal :=
  runDpas (f.admitted (.int .s4 .s4)) s

/-- `DPAS.s4.u8`: `Src1` elements `s4`, `Src2` elements `u8` (R146, R150). -/
def execDpasS4U8 (f : Form) (s : State) : Host.Outcome State Fault Refusal :=
  runDpas (f.admitted (.int .s4 .u8)) s

/-- `DPAS.s4.s8`: `Src1` elements `s4`, `Src2` elements `s8` (R146, R150). -/
def execDpasS4S8 (f : Form) (s : State) : Host.Outcome State Fault Refusal :=
  runDpas (f.admitted (.int .s4 .s8)) s

/-- `DPAS.u8.u2`: `Src1` elements `u8`, `Src2` elements `u2` (R146, R150). -/
def execDpasU8U2 (f : Form) (s : State) : Host.Outcome State Fault Refusal :=
  runDpas (f.admitted (.int .u8 .u2)) s

/-- `DPAS.u8.s2`: `Src1` elements `u8`, `Src2` elements `s2` (R146, R150). -/
def execDpasU8S2 (f : Form) (s : State) : Host.Outcome State Fault Refusal :=
  runDpas (f.admitted (.int .u8 .s2)) s

/-- `DPAS.u8.u4`: `Src1` elements `u8`, `Src2` elements `u4` (R146, R150). -/
def execDpasU8U4 (f : Form) (s : State) : Host.Outcome State Fault Refusal :=
  runDpas (f.admitted (.int .u8 .u4)) s

/-- `DPAS.u8.s4`: `Src1` elements `u8`, `Src2` elements `s4` (R146, R150). -/
def execDpasU8S4 (f : Form) (s : State) : Host.Outcome State Fault Refusal :=
  runDpas (f.admitted (.int .u8 .s4)) s

/-- `DPAS.u8.u8`: `Src1` elements `u8`, `Src2` elements `u8` (R146, R150). -/
def execDpasU8U8 (f : Form) (s : State) : Host.Outcome State Fault Refusal :=
  runDpas (f.admitted (.int .u8 .u8)) s

/-- `DPAS.u8.s8`: `Src1` elements `u8`, `Src2` elements `s8` (R146, R150). -/
def execDpasU8S8 (f : Form) (s : State) : Host.Outcome State Fault Refusal :=
  runDpas (f.admitted (.int .u8 .s8)) s

/-- `DPAS.s8.u2`: `Src1` elements `s8`, `Src2` elements `u2` (R146, R150). -/
def execDpasS8U2 (f : Form) (s : State) : Host.Outcome State Fault Refusal :=
  runDpas (f.admitted (.int .s8 .u2)) s

/-- `DPAS.s8.s2`: `Src1` elements `s8`, `Src2` elements `s2` (R146, R150). -/
def execDpasS8S2 (f : Form) (s : State) : Host.Outcome State Fault Refusal :=
  runDpas (f.admitted (.int .s8 .s2)) s

/-- `DPAS.s8.u4`: `Src1` elements `s8`, `Src2` elements `u4` (R146, R150). -/
def execDpasS8U4 (f : Form) (s : State) : Host.Outcome State Fault Refusal :=
  runDpas (f.admitted (.int .s8 .u4)) s

/-- `DPAS.s8.s4`: `Src1` elements `s8`, `Src2` elements `s4` (R146, R150). -/
def execDpasS8S4 (f : Form) (s : State) : Host.Outcome State Fault Refusal :=
  runDpas (f.admitted (.int .s8 .s4)) s

/-- `DPAS.s8.u8`: `Src1` elements `s8`, `Src2` elements `u8` (R146, R150). -/
def execDpasS8U8 (f : Form) (s : State) : Host.Outcome State Fault Refusal :=
  runDpas (f.admitted (.int .s8 .u8)) s

/-- `DPAS.s8.s8`: `Src1` elements `s8`, `Src2` elements `s8` (R146, R150). -/
def execDpasS8S8 (f : Form) (s : State) : Host.Outcome State Fault Refusal :=
  runDpas (f.admitted (.int .s8 .s8)) s

end Sys2Proof.Machine
end

