-- ==== Sys2Proof/Machine/RefusedDpas.lean ====
section
/-! DEFINITION. The ten rows of forms the spec refuses (R66, R69, R70, R71, R102, R104; log 22). -/

namespace Sys2Proof.Machine

/-- `DPAS` with a 1-bit precision `u1` or `s1`: no semantics in the source (R104). -/
def execDpasOneBit (t : Dpas) (s : State) : Host.Outcome State Fault Refusal :=
  stopDpas t .unsupportedPrecision s

/-- `DPAS.tf32.tf32`: no storage, pseudocode, alignment or execution size in the source (R104, R170). -/
def execDpasTf32Tf32 (f : Form) (sd : Byte) (s : State) : Host.Outcome State Fault Refusal :=
  stopDpas { f with w := 0x0C, a := 0x0C, sd := sd } .unsupportedPrecision s

/-- `DPAS` with the precision code `0000b`, "unused" (R71). -/
def execDpasUnusedPrecision (t : Dpas) (s : State) : Host.Outcome State Fault Refusal :=
  stopDpas t .badPrecision s

/-- `DPAS` with a precision code that has no row, or a precision byte above `0x0F` (R71). -/
def execDpasUnassignedPrecision (t : Dpas) (s : State) : Host.Outcome State Fault Refusal :=
  stopDpas t .badPrecision s

/-- `DPAS` with an integer and a float precision, or with `bf` and `hf` (R102). -/
def execDpasMixedPrecision (t : Dpas) (s : State) : Host.Outcome State Fault Refusal :=
  stopDpas t .precisionMismatch s

/-- `DPAS` with depth 1, 2 or 4, which neither platform supports (R104). -/
def execDpasShallowDepth (t : Dpas) (s : State) : Host.Outcome State Fault Refusal :=
  stopDpas t .unsupportedDepth s

/-- `DPAS` with a depth byte that is not encodable (R69). -/
def execDpasOtherDepth (t : Dpas) (s : State) : Host.Outcome State Fault Refusal :=
  stopDpas t .badDepth s

/-- `DPAS` with repeat count 0 (R70). A count above `RC_MAX`, which is a parameter of the run, is refused in every row. -/
def execDpasBadRepeatCount (t : Dpas) (s : State) : Host.Outcome State Fault Refusal :=
  stopDpas t .badRepeatCount s

/-- `DPAS` with an operand type for which the source gives no layout (R104). -/
def execDpasUnsupportedType (t : Dpas) (s : State) : Host.Outcome State Fault Refusal :=
  stopDpas t .unsupportedType s

/-- `DPAS` with an `Exec_size` byte that no platform takes (R66). The other platform's size code is refused in every row. -/
def execDpasBadExecSize (t : Dpas) (s : State) : Host.Outcome State Fault Refusal :=
  stopDpas t .badExecSize s

end Sys2Proof.Machine
end

