-- ==== Sys2Proof/Machine/Dispatch.lean ====
section
/-! DEFINITION. One arm for each constructor of `Instr`. -/

namespace Sys2Proof.Machine

def exec (i : Instr) (s : State) : Host.Outcome State Fault Refusal :=
  match i with
  | .dpas t => Sys2Proof.Machine.execDpas t s
  | .dpasU2U2 f => Sys2Proof.Machine.execDpasU2U2 f s
  | .dpasU2S2 f => Sys2Proof.Machine.execDpasU2S2 f s
  | .dpasU2U4 f => Sys2Proof.Machine.execDpasU2U4 f s
  | .dpasU2S4 f => Sys2Proof.Machine.execDpasU2S4 f s
  | .dpasU2U8 f => Sys2Proof.Machine.execDpasU2U8 f s
  | .dpasU2S8 f => Sys2Proof.Machine.execDpasU2S8 f s
  | .dpasS2U2 f => Sys2Proof.Machine.execDpasS2U2 f s
  | .dpasS2S2 f => Sys2Proof.Machine.execDpasS2S2 f s
  | .dpasS2U4 f => Sys2Proof.Machine.execDpasS2U4 f s
  | .dpasS2S4 f => Sys2Proof.Machine.execDpasS2S4 f s
  | .dpasS2U8 f => Sys2Proof.Machine.execDpasS2U8 f s
  | .dpasS2S8 f => Sys2Proof.Machine.execDpasS2S8 f s
  | .dpasU4U2 f => Sys2Proof.Machine.execDpasU4U2 f s
  | .dpasU4S2 f => Sys2Proof.Machine.execDpasU4S2 f s
  | .dpasU4U4 f => Sys2Proof.Machine.execDpasU4U4 f s
  | .dpasU4S4 f => Sys2Proof.Machine.execDpasU4S4 f s
  | .dpasU4U8 f => Sys2Proof.Machine.execDpasU4U8 f s
  | .dpasU4S8 f => Sys2Proof.Machine.execDpasU4S8 f s
  | .dpasS4U2 f => Sys2Proof.Machine.execDpasS4U2 f s
  | .dpasS4S2 f => Sys2Proof.Machine.execDpasS4S2 f s
  | .dpasS4U4 f => Sys2Proof.Machine.execDpasS4U4 f s
  | .dpasS4S4 f => Sys2Proof.Machine.execDpasS4S4 f s
  | .dpasS4U8 f => Sys2Proof.Machine.execDpasS4U8 f s
  | .dpasS4S8 f => Sys2Proof.Machine.execDpasS4S8 f s
  | .dpasU8U2 f => Sys2Proof.Machine.execDpasU8U2 f s
  | .dpasU8S2 f => Sys2Proof.Machine.execDpasU8S2 f s
  | .dpasU8U4 f => Sys2Proof.Machine.execDpasU8U4 f s
  | .dpasU8S4 f => Sys2Proof.Machine.execDpasU8S4 f s
  | .dpasU8U8 f => Sys2Proof.Machine.execDpasU8U8 f s
  | .dpasU8S8 f => Sys2Proof.Machine.execDpasU8S8 f s
  | .dpasS8U2 f => Sys2Proof.Machine.execDpasS8U2 f s
  | .dpasS8S2 f => Sys2Proof.Machine.execDpasS8S2 f s
  | .dpasS8U4 f => Sys2Proof.Machine.execDpasS8U4 f s
  | .dpasS8S4 f => Sys2Proof.Machine.execDpasS8S4 f s
  | .dpasS8U8 f => Sys2Proof.Machine.execDpasS8U8 f s
  | .dpasS8S8 f => Sys2Proof.Machine.execDpasS8S8 f s
  | .dpasBfBf f => Sys2Proof.Machine.execDpasBfBf f s
  | .dpasHfHf f => Sys2Proof.Machine.execDpasHfHf f s
  -- the rows of refused forms
  | .dpasOneBit t => Sys2Proof.Machine.execDpasOneBit t s
  | .dpasTf32Tf32 f sd => Sys2Proof.Machine.execDpasTf32Tf32 f sd s
  | .dpasUnusedPrecision t => Sys2Proof.Machine.execDpasUnusedPrecision t s
  | .dpasUnassignedPrecision t => Sys2Proof.Machine.execDpasUnassignedPrecision t s
  | .dpasMixedPrecision t => Sys2Proof.Machine.execDpasMixedPrecision t s
  | .dpasShallowDepth t => Sys2Proof.Machine.execDpasShallowDepth t s
  | .dpasOtherDepth t => Sys2Proof.Machine.execDpasOtherDepth t s
  | .dpasBadRepeatCount t => Sys2Proof.Machine.execDpasBadRepeatCount t s
  | .dpasUnsupportedType t => Sys2Proof.Machine.execDpasUnsupportedType t s
  | .dpasBadExecSize t => Sys2Proof.Machine.execDpasBadExecSize t s

end Sys2Proof.Machine
end

