-- ==== Sys2Proof/Machine/Step.lean ====
section
/-! DEFINITION. One step of the machine (R24, R205), and the placing of one instruction where the next step fetches (log 1). -/

namespace Sys2Proof.Machine

/-- What a completed instruction leaves, with the end of the run noted (R205); a stop is passed on. -/
def settleOutcome : Host.Outcome State Fault Refusal → Host.Outcome State Fault Refusal
  | .next s    => .next s.settle
  | .fault r   => .fault r
  | .refused r => .refused r

/-- One step of a running machine: `prog[pc]` is fetched and executed, and the run ends when `pc` reaches `L` (R24, R205). -/
def runStep (s : State) : Host.Outcome State Fault Refusal :=
  match s.fetch with
  | .instr i      => settleOutcome (exec i s)
  | .reject r     => .refused r
  | .endOfProgram => .next s.settle
  | .pastEnd      => .refused .pcPastEnd

/-- One step. An ended, refused or faulted run does not go on (R181, R188, R205; log 16). -/
def step (s : State) : Host.Outcome State Fault Refusal :=
  match s.outcome with
  | .running   => runStep s
  | .ended     => .refused .runEnded
  | .refused r => .refused r
  | .faulted r => .fault r

/-- The instruction of an opcode-table word, placed where `step` fetches its next instruction (log 1). -/
def State.withFetchWord (s : State) (nbits w : Nat) : State :=
  s.placeSlot (tableBytes nbits w)

end Sys2Proof.Machine
end

