-- ==== Sys2Proof/Machine/FloatFormats.lean ====
section
/-! DEFINITION. The float formats as exact numbers (R161 to R163) and the named property `EXACT_WHEN_REPRESENTABLE` that a claim may
assume of a float stage function (R168). The machine assumes nothing of these functions (R166); this file is used by claims alone
(log 21).

Every finite F number is a whole multiple of `2^-149`, and so is every finite `bf` and `hf` number; a number is therefore written
as an integer, its multiple of `2^-149`, and a product of two as its multiple of `2^-298`. -/

namespace Sys2Proof.Machine

/-- The biased exponent of an F number: bits 30..23 (R163). -/
def fExponent (x : Word) : Nat :=
  x.toNat / 2 ^ 23 % 256

/-- The mantissa of an F number: bits 22..0 (R163). -/
def fMantissa (x : Word) : Nat :=
  x.toNat % 2 ^ 23

/-- A finite F number that is not subnormal: normal, or a zero. -/
def fOrdinary (x : Word) : Bool :=
  fExponent x != 255 && (fExponent x != 0 || fMantissa x == 0)

/-- The value of a finite F number, in units of `2^-149` (R163). -/
def fUnits (x : Word) : Int :=
  let mag : Nat := if fExponent x = 0 then fMantissa x else (2 ^ 23 + fMantissa x) * 2 ^ (fExponent x - 1)
  if x.msb then -(mag : Int) else mag

/-- A 16-bit format: which fields are finite and not subnormal, and the value of a finite field in units of `2^-149`. -/
structure HalfFormat where
  ordinary : Half → Bool
  units    : Half → Int

/-- `bf`: the value of the IEEE single whose high half the field is (R161). -/
def bfFormat : HalfFormat where
  ordinary x := fOrdinary (x ++ (0 : BitVec 16))
  units    x := fUnits (x ++ (0 : BitVec 16))

/-- The biased exponent of an `hf` field: bits 14..10 (R162). -/
def hfExponent (x : Half) : Nat :=
  x.toNat / 2 ^ 10 % 32

/-- The mantissa of an `hf` field: bits 9..0 (R162). -/
def hfMantissa (x : Half) : Nat :=
  x.toNat % 2 ^ 10

/-- `hf`: exponent bias 15, so a normal field is `(2^10 + m) * 2^(e - 25)` (R162). -/
def hfFormat : HalfFormat where
  ordinary x := hfExponent x != 31 && (hfExponent x != 0 || hfMantissa x == 0)
  units    x :=
    let mag : Nat :=
      if hfExponent x = 0 then hfMantissa x * 2 ^ 125 else (2 ^ 10 + hfMantissa x) * 2 ^ (hfExponent x + 124)
    if x.msb then -(mag : Int) else mag

/-- A number, in units of `2^-298`, that is zero or exactly a normal F number. -/
def FRepresentable (v : Int) : Prop :=
  ∃ x : Word, fOrdinary x = true ∧ fUnits x * 2 ^ 149 = v

/-- `EXACT_WHEN_REPRESENTABLE` (R168), of a stage function `g` on elements of a 16-bit format: where the operands are finite and
not subnormal and every partial value is zero or a normal F number, the result is the F number of the exact total. -/
def ExactWhenRepresentable (h : HalfFormat) (g : Word → Half → Half → Half → Half → Word) : Prop :=
  ∀ acc b0 b1 a0 a1,
    fOrdinary acc = true → h.ordinary b0 = true → h.ordinary b1 = true → h.ordinary a0 = true → h.ordinary a1 = true →
    FRepresentable (h.units b0 * h.units a0) → FRepresentable (h.units b1 * h.units a1) →
    FRepresentable (h.units b0 * h.units a0 + h.units b1 * h.units a1) →
    FRepresentable (fUnits acc * 2 ^ 149 + h.units b0 * h.units a0) →
    FRepresentable (fUnits acc * 2 ^ 149 + h.units b1 * h.units a1) →
    FRepresentable (fUnits acc * 2 ^ 149 + h.units b0 * h.units a0 + h.units b1 * h.units a1) →
    fOrdinary (g acc b0 b1 a0 a1) = true ∧
      fUnits (g acc b0 b1 a0 a1) * 2 ^ 149 =
        fUnits acc * 2 ^ 149 + h.units b0 * h.units a0 + h.units b1 * h.units a1

end Sys2Proof.Machine
end

