-- ==== Sys2Proof/Safety.lean ====
section
/-! DEFINITION. The terms in which claims speak: a legal DPAS (R117) and written sources (R126) as plain conditions, the matrices of
R122, the row-by-row pseudocode of R118, the state after a stop (R181), and the invariant of the machine. -/

namespace Sys2Proof.Machine

/-- The operand names a place, is of one of the given types, and bears no modifier. -/
def plainOperand (tys : List OpType) : Operand → Bool
  | .null => false
  | .reg _ _ ty m => decide (ty ∈ tys) && !m

/-- R117, checks 1 to 7: the fields of one byte are those of kind `k` on the platform. -/
def LegalBytes (p : Params) (k : Kind) (t : Dpas) : Prop :=
  t.execSize.sizeCode = platformSizeCode p.platform ∧ t.execSize.bit3 = 0 ∧
  t.w = kindCodeW k ∧ t.a = kindCodeA k ∧ t.sd = 8 ∧ 1 ≤ t.rc.toNat ∧ t.rc.toNat ≤ p.rcMax

/-- R117, checks 8 to 11: which operands may be null, modifiers, types. -/
def LegalOperands (k : Kind) (t : Dpas) : Prop :=
  plainOperand (accTypes k) t.dst = true ∧ (t.src0 = .null ∨ plainOperand (accTypes k) t.src0 = true) ∧
  plainOperand [.d, .ud] t.src1 = true ∧ plainOperand [.d, .ud] t.src2 = true

/-- R117, check 12: the alignment of R110. -/
def LegalAlignment (p : Params) (k : Kind) (t : Dpas) : Prop :=
  operandFlat p t.dst % grfDw p.platform = 0 ∧
  (t.src0 = .null ∨ operandFlat p t.src0 % grfDw p.platform = 0) ∧
  operandFlat p t.src1 % grfDw p.platform = 0 ∧
  operandFlat p t.src2 % kindAlign2 k 8 = 0

/-- R117, check 13: the footprints lie inside the register file (R112). -/
def LegalRange (p : Params) (k : Kind) (t : Dpas) : Prop :=
  operandGrf p t.dst + t.rc.toNat ≤ p.ngrf ∧
  (t.src0 = .null ∨ operandGrf p t.src0 + t.rc.toNat ≤ p.ngrf) ∧
  operandGrf p t.src1 + kindG1 k 8 ≤ p.ngrf ∧
  operandFlat p t.src2 + t.rc.toNat * kindAlign2 k 8 ≤ p.ngrf * grfDw p.platform

/-- R117, check 14: the overlap rule (R113), in GRF numbers for `Src0` and `Src1` and in flat dwords for `Src2`. -/
def LegalOverlap (p : Params) (k : Kind) (t : Dpas) : Prop :=
  let bD := operandGrf p t.dst
  let rc := t.rc.toNat
  (bD + rc ≤ operandGrf p t.src1 ∨ operandGrf p t.src1 + kindG1 k 8 ≤ bD) ∧
  ((bD + rc) * grfDw p.platform ≤ operandFlat p t.src2 ∨
    operandFlat p t.src2 + rc * kindAlign2 k 8 ≤ bD * grfDw p.platform) ∧
  (t.src0 = .null ∨ operandGrf p t.src0 = bD ∨ bD + rc ≤ operandGrf p t.src0 ∨ operandGrf p t.src0 + rc ≤ bD)

/-- A well-formed DPAS of kind `k` (R117). -/
def Legal (p : Params) (k : Kind) (t : Dpas) : Prop :=
  LegalBytes p k t ∧ LegalOperands k t ∧ LegalAlignment p k t ∧ LegalRange p k t ∧ LegalOverlap p k t ∧
  t ∉ p.platformRefuses

/-- The flat index of dword `j` of GRF `g` (R10). -/
def flatIndex (p : Params) (g j : Nat) : Nat :=
  g * grfDw p.platform + j

/-- Every dword of the footprints of `Src0` (unless null), `Src1` and `Src2` holds a value (R111, R126). -/
def SourcesHeld (p : Params) (k : Kind) (t : Dpas) (rf : RegFile) : Prop :=
  (t.src0 = .null ∨ ∀ r < t.rc.toNat, ∀ j < grfDw p.platform,
    RegFile.read rf (flatIndex p (operandGrf p t.src0 + r) j) ≠ .unwritten) ∧
  (∀ g < kindG1 k 8, ∀ j < grfDw p.platform,
    RegFile.read rf (flatIndex p (operandGrf p t.src1 + g) j) ≠ .unwritten) ∧
  (∀ x < t.rc.toNat * kindAlign2 k 8, RegFile.read rf (operandFlat p t.src2 + x) ≠ .unwritten)

/-- `x` is a dword of `Dst` that the DPAS writes: dword `i` of row `r`, the channel enabled (R114, R121). -/
def WritesDw (p : Params) (t : Dpas) (x : Nat) : Prop :=
  ∃ r < t.rc.toNat, ∃ i < grfDw p.platform,
    channelEnabled p t.execSize.maskCode i = true ∧ x = flatIndex p (operandGrf p t.dst + r) i

/-- `C[r][i]` (R114), zero when `Src0` is null (R109). -/
def matC (p : Params) (t : Dpas) (rf : RegFile) (r i : Nat) : Word :=
  match t.src0 with
  | .null => 0
  | o => (RegFile.read rf (flatIndex p (operandGrf p o + r) i)).word

/-- The raw field of `B[kk][i]` (R115, R122). -/
def matB (p : Params) (k : Kind) (t : Dpas) (rf : RegFile) (kk i : Nat) : Nat :=
  elem (kindP1 k) (RegFile.read rf (flatIndex p (operandGrf p t.src1 + kk / (32 / kindP1 k)) i)).word (kk % (32 / kindP1 k))

/-- The raw field of `A[r][kk]` (R116, R122), with `K = 8 * OPS`. -/
def matA (p : Params) (k : Kind) (t : Dpas) (rf : RegFile) (r kk : Nat) : Nat :=
  let e := r * (8 * kindOps k) + kk
  elem (kindP2 k) (RegFile.read rf (operandFlat p t.src2 + e / (32 / kindP2 k))).word (e % (32 / kindP2 k))

/-- `sum over kk of val(A, A[r][kk]) * val(W, B[kk][i])` (R122), an exact integer. -/
def rowSum (p : Params) (w a : IntPrec) (t : Dpas) (rf : RegFile) (r i : Nat) : Int :=
  ∑ kk ∈ Finset.range (8 * kindOps (.int w a)),
    intVal a (matA p (.int w a) t rf r kk) * intVal w (matB p (.int w a) t rf kk i)

/-- The GRF number and the DW offset an operand names, with its type and modifier left out. -/
def Operand.position : Operand → Option (Nat × Nat)
  | .null => none
  | .reg g j _ _ => some (g, j)

/-- Two forms that differ at most in the declared types of their operands. -/
def SameButTypes (f g : Form) : Prop :=
  f.execSize = g.execSize ∧ f.rc = g.rc ∧ Operand.position f.dst = Operand.position g.dst ∧
  Operand.position f.src0 = Operand.position g.src0 ∧ Operand.position f.src1 = Operand.position g.src1 ∧
  Operand.position f.src2 = Operand.position g.src2

/-- Dword `d` of row `r` of `Src2` in a float DPAS, which holds the two elements of A of stage `d` (R165). -/
def floatDwA (p : Params) (t : Dpas) (rf : RegFile) (r d : Nat) : Word :=
  (RegFile.read rf (operandFlat p t.src2 + r * 8 + d)).word

/-- Dword `i` of GRF `bB + d` of `Src1` in a float DPAS, which holds the two elements of B of stage `d` (R165). -/
def floatDwB (p : Params) (t : Dpas) (rf : RegFile) (d i : Nat) : Word :=
  (RegFile.read rf (flatIndex p (operandGrf p t.src1 + d) i)).word

/-- One application of a float stage function to the low and high halves of the two dwords of stage `d` (R165, R167 b). -/
def floatStageAt (g : Word → Half → Half → Half → Half → Word) (p : Params) (t : Dpas) (rf : RegFile) (r i d : Nat)
    (acc : Word) : Word :=
  g acc ((floatDwB p t rf d i).extractLsb' 0 16) ((floatDwB p t rf d i).extractLsb' 16 16)
    ((floatDwA p t rf r d).extractLsb' 0 16) ((floatDwA p t rf r d).extractLsb' 16 16)

/-- The pseudocode taken row by row (R118): row `r` is computed from the register file that the rows before it have left. -/
def literalRows (p : Params) (k : Kind) (t : Dpas) (rf : RegFile) : RegFile :=
  (List.range t.rc.toNat).foldl (fun now r => RegFile.writeAll now (rowCells p k t now r)) rf

/-- The state of the run after a step as the spec has it (R181, R182): a refused or faulted instruction leaves the state as it was
but for the outcome, which names the reason. -/
def State.advance (s : State) : State :=
  match step s with
  | .next t    => t
  | .refused r => { s with outcome := .refused r }
  | .fault r   => { s with outcome := .faulted r }

/-- The reason of a refusal applies to the term: its check of R117 fails. The reasons a DPAS term is never refused for apply to
none. -/
def ReasonApplies (p : Params) (t : Dpas) : Refusal → Prop
  | .badExecSize => t.execSize.sizeCode ≠ platformSizeCode p.platform ∨ t.execSize.bit3 = 1
  | .badPrecision => precisionOfByte t.w = none ∨ precisionOfByte t.a = none
  | .unsupportedPrecision => t.w = 1 ∨ t.w = 2 ∨ t.w = 0x0C ∨ t.a = 1 ∨ t.a = 2 ∨ t.a = 0x0C
  | .precisionMismatch => ∀ k, ¬ (t.w = kindCodeW k ∧ t.a = kindCodeA k)
  | .badDepth => t.sd ≠ 1 ∧ t.sd ≠ 2 ∧ t.sd ≠ 4 ∧ t.sd ≠ 8
  | .unsupportedDepth => t.sd = 1 ∨ t.sd = 2 ∨ t.sd = 4
  | .badRepeatCount => t.rc = 0 ∨ p.rcMax < t.rc.toNat
  | .nullOperand => t.dst = .null ∨ t.src1 = .null ∨ t.src2 = .null
  | .sourceModifier => ∃ o ∈ [t.dst, t.src0, t.src1, t.src2], ∃ g j ty, o = .reg g j ty true
  | .unsupportedType =>
    (∃ o ∈ [t.dst, t.src0], ∃ g j ty m, o = .reg g j ty m ∧ ty ∈ [.bf, .hf, .df]) ∨
      (∃ o ∈ [t.src1, t.src2], ∃ g j m, o = .reg g j .df m)
  | .typeCombination => ∃ k, t.w = kindCodeW k ∧ t.a = kindCodeA k ∧
      ((∃ o ∈ [t.dst, t.src0], ∃ g j ty m, o = .reg g j ty m ∧ ty ∉ accTypes k) ∨
        (∃ o ∈ [t.src1, t.src2], ∃ g j ty m, o = .reg g j ty m ∧ ty ∉ [.d, .ud]))
  | .misaligned => ∃ k, t.w = kindCodeW k ∧ t.a = kindCodeA k ∧ ¬ LegalAlignment p k t
  | .outOfRange => ∃ k, t.w = kindCodeW k ∧ t.a = kindCodeA k ∧ ¬ LegalRange p k t
  | .overlap => ∃ k, t.w = kindCodeW k ∧ t.a = kindCodeA k ∧ ¬ LegalOverlap p k t
  | .platformRestriction => t ∈ p.platformRefuses
  | _ => False

/-- The invariant of the machine: the register file is in canonical form and lists only dwords that exist (R20), `pc` is an index
of the program or its length (R24), and an ended run stands at the end (R205). -/
def State.Inv (s : State) : Prop :=
  RegFile.wf s.rf ∧ (∀ c ∈ s.rf, c.1 < s.params.ngrf * grfDw s.params.platform) ∧
  s.pc ≤ s.prog.length ∧ (s.outcome = .ended → s.pc = s.prog.length)

end Sys2Proof.Machine
end

