-- ==== Sys2Proof/Certificates/Slice0/Obligations.lean ====
section
/-! DEFINITION. The statements for the provers. "Log n" is notes/assumptions/n.md. -/

open Sys2Proof Sys2Proof.Machine

/-! Encoding. -/

/-- Decoding an encoded instruction gives it back, for every well-formed instruction of every row, with every operand the layout
admits. The operand layout is the model's (log 13), and so is which row a term belongs to (log 15). -/
def Obligations.DecodeOfEncodeIsTheInstruction : Prop :=
  ∀ i : Instr, i.wf = true → decode (encode i) = .ok i

/-- R60: a first byte other than `0x83` spells no instruction, in every operand layout, and a DPAS begins with `0x83`. -/
def Obligations.OtherOpcodesAreUnknown : Prop :=
  ∀ (L : OperandLayout) (op : Byte) (rest : List Byte),
    (op ≠ 0x83 → decodeTerm L (op :: rest) = .error .unknownOpcode) ∧
    (∀ t, decodeTerm L (op :: rest) = .ok t → op = 0x83)

/-- The fields follow the opcode in the order Exec_size, Dst, Src0, Src1, Src2, W, A, SD, RC, one after the other with nothing
between (R61), and the decoder answers the term whatever the field values are (R77), in every operand layout. That each `ub` field
is one byte is the spec's decision D9 (R62, log 14), and that `resolve` gives an operand for every field value is the model's
(log 13). -/
def Obligations.DecoderCutsTheFieldsInOrder : Prop :=
  ∀ (L : OperandLayout) (e w a sd rc : Byte) (xD xC xB xA : List Byte),
    xD.length = L.rawBytes → xC.length = L.rawBytes → xB.length = L.rawBytes → xA.length = L.vecBytes →
    decodeTerm L ([0x83] ++ [e] ++ xD ++ xC ++ xB ++ xA ++ [w] ++ [a] ++ [sd] ++ [rc]) =
      .ok { execSize := execSizeOfByte e, dst := L.resolveRaw xD, src0 := L.resolveRaw xC, src1 := L.resolveRaw xB,
            src2 := L.resolveVec xA, w := w, a := a, sd := sd, rc := rc }

/-- The decoder judges no field value (R77): every slot of an instruction's length that begins with `0x83` is a term, in every
operand layout, and in the machine's own a well-formed instruction. The length is R63's, with `ub` one byte (D9, log 14); the
layout is the model's (log 13), and so is the row (log 15). -/
def Obligations.DecoderAnswersEverySlotOfItsLength : Prop :=
  ∀ rest : List Byte,
    (∀ L : OperandLayout, (0x83 :: rest).length = instrBytes L → ∃ t, decodeTerm L (0x83 :: rest) = .ok t) ∧
    ((0x83 :: rest).length = instrBytes operandLayout → ∃ i, decode (0x83 :: rest) = .ok i ∧ i.wf = true)

/-- A slot whose instruction completes in some state is the encoding of that instruction: of the many bytes that decode, none but
an encoder's own completes (the model's layout, log 13, in which bytes no encoder writes are operands that R117 refuses). -/
def Obligations.CompletingSlotsAreEncodings : Prop :=
  ∀ (bs : List Byte) (i : Instr) (s u : State), decode bs = .ok i → exec i s = .next u → encode i = bs

/-- R66: the size code is bits 2..0 of the `Exec_size` byte, bit 3 stands alone, the mask code is bits 7..4. -/
def Obligations.ExecSizeByteHasThreeFields : Prop :=
  ∀ b : Byte, (execSizeOfByte b).sizeCode.toNat = b.toNat % 8 ∧ (execSizeOfByte b).bit3.toNat = b.toNat / 8 % 2 ∧
    (execSizeOfByte b).maskCode.toNat = b.toNat / 16 ∧ execSizeByte (execSizeOfByte b) = b

/-- Words written out from the field table of R62 and the codes of R66 to R70 decode to the rows they stand for. The four operand
groups are in the model's layout (log 13); that the `W`, `A`, `SD` and `RC` bytes are the code, the depth and the count themselves is
the spec's decisions D9 and D10 (log 14). -/
def Obligations.WordsDecodeToTheirRows : Prop :=
  decode [0x83, 0x83, 1, 0, 20, 0, 1, 0, 10, 0, 2, 0, 30, 0, 1, 0, 40, 0, 0x07, 0x08, 0x08, 0x02] =
      .ok (.dpasU8S8 { execSize := ⟨3, 0, 8⟩, dst := .reg 20 0 .d false, src0 := .reg 10 0 .d false,
                       src1 := .reg 30 0 .ud false, src2 := .reg 40 0 .d false, rc := 2 }) ∧
  decode [0x83, 0xF4, 3, 0, 20, 0, 0, 0, 0, 0, 1, 0, 30, 0, 2, 4, 40, 1, 0x0A, 0x0A, 0x08, 0x08] =
      .ok (.dpasHfHf { execSize := ⟨4, 0, 15⟩, dst := .reg 20 0 .f false, src0 := .null,
                       src1 := .reg 30 0 .d false, src2 := .reg 296 4 .ud false, rc := 8 }) ∧
  decode [0x82, 0x83, 1, 0, 20, 0, 1, 0, 10, 0, 2, 0, 30, 0, 1, 0, 40, 0, 0x07, 0x08, 0x08, 0x02] =
      .error .unknownOpcode

/-- Each term belongs to one row of the opcode table: its row carries it, and a well-formed instruction is the row of its term.
Which row takes what is the model's (log 15). -/
def Obligations.EveryTermHasOneRow : Prop :=
  (∀ t : Dpas, t.toForm.encodable = true → (Instr.ofTerm t).wf = true ∧ (Instr.ofTerm t).term = t) ∧
  (∀ i : Instr, i.wf = true → Instr.ofTerm i.term = i)

/-- The generic row means what the row of its term means, on every term and state (R78; log 15). -/
def Obligations.GenericRowAgreesWithEveryRow : Prop :=
  ∀ (t : Dpas) (s : State), exec (.dpas t) s = exec (Instr.ofTerm t) s

/-! The step. -/

/-- A step of a running machine at a slot that decodes to `i` is `exec` of `i`, with the end of the run noted when the new `pc` is
the length of the program (R24, R205; a program in encoded slots is the model's, log 1). -/
def Obligations.StepRunsTheDecodedInstruction : Prop :=
  ∀ (s : State) (bs : List Byte) (i : Instr),
    s.outcome = .running → s.prog[s.pc]? = some bs → decode bs = .ok i →
    step s = match exec i s with
      | .next u    => .next (if u.pc = u.prog.length then { u with outcome := .ended } else u)
      | .fault r   => .fault r
      | .refused r => .refused r

/-- A slot whose first byte is not `0x83` is refused as `UnknownOpcode` (R71, R181). -/
def Obligations.StepRefusesUnknownOpcodes : Prop :=
  ∀ (s : State) (op : Byte) (rest : List Byte),
    s.outcome = .running → s.prog[s.pc]? = some (op :: rest) → op ≠ 0x83 → step s = .refused .unknownOpcode

/-- A step inside the program moves `pc` to the next index, and the run is ended exactly when that index is the length of the
program (R24, R127, R205; the decision D1 of the spec). -/
def Obligations.RunAdvancesAndEnds : Prop :=
  ∀ s t : State, s.pc < s.prog.length → step s = .next t →
    t.pc = s.pc + 1 ∧ t.outcome = (if t.pc = s.prog.length then .ended else .running)

/-- A refused or faulted step leaves the register file, `pc`, the program and the parameters as they were, and the run does not
resume; an ended run has no next state (R181, R187, R188, R205; how the outcome is recorded is the model's, log 16). -/
def Obligations.StoppedRunsStayStopped : Prop :=
  (∀ (s : State) (r : Refusal), step s = .refused r → s.outcome = .running →
    s.advance = { s with outcome := .refused r } ∧ step s.advance = .refused r ∧ s.advance.advance = s.advance) ∧
  (∀ (s : State) (r : Fault), step s = .fault r → s.outcome = .running →
    s.advance = { s with outcome := .faulted r } ∧ step s.advance = .fault r ∧ s.advance.advance = s.advance) ∧
  (∀ s t : State, s.outcome = .ended → step s ≠ .next t)

/-- No step changes the program or a parameter of the run (R24, R49, R200; they ride in the state by the model's choice, log 2). -/
def Obligations.ProgramAndParametersAreFixed : Prop :=
  ∀ s t : State, step s = .next t → t.prog = s.prog ∧ t.params = s.params

/-- The register file keeps its canonical form and lists only dwords that exist, `pc` stays an index of the program or its length,
and an ended run stands at the end. -/
def Obligations.StepKeepsTheInvariant : Prop :=
  ∀ s t : State, s.Inv → step s = .next t → t.Inv

/-- The state after reset meets the invariant. -/
def Obligations.ResetMeetsTheInvariant : Prop :=
  State.reset.Inv

/-- After reset `pc` is 0 and the run is running (R32, the decisions D1, D13 of the spec); every dword holds the value 0, which is
the model's choice (log 9), and no program is placed (log 1). -/
def Obligations.ResetStateIsAsLogged : Prop :=
  State.reset.pc = 0 ∧ State.reset.outcome = .running ∧ State.reset.prog = [] ∧
    ∀ x, RegFile.read State.reset.rf x = .val 0

/-! Kinds, shapes and elements. -/

/-- R106: `OPS_PER_CHAN` of every kind. -/
def Obligations.OpsPerChannelOfEveryKind : Prop :=
  (kindOps .bf = 2 ∧ kindOps .hf = 2) ∧
  ∀ w a : IntPrec,
    ((intPrecBits w = 8 ∨ intPrecBits a = 8) → kindOps (.int w a) = 4) ∧
    ((intPrecBits w = 2 ∨ intPrecBits w = 4) ∧ (intPrecBits a = 2 ∨ intPrecBits a = 4) → kindOps (.int w a) = 8)

/-- The kind of a term is a function of the bytes `W` and `A` (R102): the 36 integer pairs, `bf` with `bf`, `hf` with `hf`, and no
other; a term with no kind is refused. -/
def Obligations.KindIsAFunctionOfTwoBytes : Prop :=
  ∀ t : Dpas, (∀ k, dpasKind t = some k ↔ t.w = kindCodeW k ∧ t.a = kindCodeA k) ∧
    (dpasKind t = none → ∀ s, ∃ r, exec (.dpas t) s = .refused r)

/-- `S1OPC`, `G1` and `ALIGN2` of all 38 kinds at depth 8, by the widths of the two precisions (the tables of R150, R164): the
columns `S1OPC`, `G1` and `ALIGN2`, and the identities that tie them to `K` (R107, R111). -/
def Obligations.ShapesOfEveryKind : Prop :=
  (∀ k : Kind, kindS1opc k * kindOps k = 32 / kindP1 k ∧ kindG1 k 8 = kindK k 8 * kindP1 k / 32 ∧
    kindAlign2 k 8 = kindK k 8 * kindP2 k / 32 ∧ grfDw .xehp % kindAlign2 k 8 = 0 ∧ grfDw .pvc % kindAlign2 k 8 = 0) ∧
  (∀ w a : IntPrec,
    (kindS1opc (.int w a), kindG1 (.int w a) 8, kindAlign2 (.int w a) 8) =
      match intPrecBits w, intPrecBits a with
      | 8, 8 => (1, 8, 8)
      | 8, 4 => (1, 8, 4)
      | 8, _ => (1, 8, 2)
      | 4, 8 => (2, 4, 8)
      | 4, 4 => (1, 8, 8)
      | 4, _ => (1, 8, 4)
      | _, 8 => (4, 2, 8)
      | _, 4 => (2, 4, 8)
      | _, _ => (2, 4, 4)) ∧
  (kindS1opc .bf, kindG1 .bf 8, kindAlign2 .bf 8) = (1, 8, 8) ∧
  (kindS1opc .hf, kindG1 .hf 8, kindAlign2 .hf 8) = (1, 8, 8)

/-- The elements of a dword, put together with element 0 lowest, are the dword: no bit is dropped and none read twice (R42; that
element 0 is the lowest is the spec's decision D4, log 10). -/
def Obligations.ElementsMakeUpTheDword : Prop :=
  ∀ P ∈ [2, 4, 8, 16], ∀ dw : Word,
    ∑ e ∈ Finset.range (32 / P), elem P dw e * 2 ^ (e * P) = dw.toNat

/-- The value of a raw field lies in the range of its precision and is congruent to the field (R140, R141). -/
def Obligations.ElementValuesFillTheirRange : Prop :=
  ∀ (q : IntPrec) (x : Nat), x < 2 ^ intPrecBits q →
    intVal q x % 2 ^ intPrecBits q = x ∧
    (intPrecSigned q = true → -(2 ^ (intPrecBits q - 1)) ≤ intVal q x ∧ intVal q x < 2 ^ (intPrecBits q - 1)) ∧
    (intPrecSigned q = false → 0 ≤ intVal q x ∧ intVal q x < 2 ^ intPrecBits q)

/-- R147: the sum of a row never leaves 22 bits, whatever the registers hold. -/
def Obligations.RowSumsAreSmall : Prop :=
  ∀ (p : Params) (w a : IntPrec) (t : Dpas) (rf : RegFile) (r i : Nat),
    |rowSum p w a t rf r i| ≤ 2080800 ∧
    (kindOps (.int w a) = 8 → |rowSum p w a t rf r i| ≤ 14400) ∧
    (w = .s8 → a = .s8 → -520192 ≤ rowSum p w a t rf r i ∧ rowSum p w a t rf r i ≤ 524288)

/-- Single integer stages: the worked example of R152, the corner cases (c) to (f) of R151, and an eight-element stage with
signed elements. Wrapping is the spec's decision D5 (log 11). -/
def Obligations.IntegerStageExamples : Prop :=
  intStage .s4 .u8 5 [1, 2, 7, 15] [1, 2, 3, 10] = 0x15 ∧
  intStage .u8 .s8 0 [0xFF, 0, 0, 0] [0x80, 0, 0, 0] = BitVec.ofInt 32 (-32640) ∧
  intStage .s8 .u8 0 [0xFF, 0, 0, 0] [0x80, 0, 0, 0] = BitVec.ofInt 32 (-128) ∧
  intStage .s8 .s8 0xFFFFFFFF [1, 0, 0, 0] [1, 0, 0, 0] = 0 ∧
  intStage .s8 .s8 0x7FFFFFFF [1, 0, 0, 0] [1, 0, 0, 0] = 0x80000000 ∧
  intStage .s8 .s8 0 [1, 0, 0, 0] [0xFF, 0, 0, 0] = 0xFFFFFFFF ∧
  intStage .s4 .s4 0x10 [8, 7, 0, 1, 15, 0, 0, 0] [8, 7, 5, 15, 1, 0, 0, 0] = 0x7F

/-! The 36 integer rows. In each statement `kindRow (.int w a) f` is the row of `w` and `a`, so the statement names all of
`dpasU2U2` to `dpasS8S8`. -/

/-- Each of the 36 integer rows, legal and with its sources holding values, completes in a next state whose enabled dwords of
`Dst` are `C + A x B` mod `2^32` (R122, R146; element order D4, log 10, and wrapping D5, log 11), with `pc` at the next index. -/
def Obligations.IntegerRowsComputeTheMatrixForm : Prop :=
  ∀ (w a : IntPrec) (f : Form) (s : State),
    Legal s.params (.int w a) (f.admitted (.int w a)) →
    SourcesHeld s.params (.int w a) (f.admitted (.int w a)) s.rf →
    ∃ u, exec (kindRow (.int w a) f) s = .next u ∧ u.pc = s.pc + 1 ∧
      ∀ r < f.rc.toNat, ∀ i < grfDw s.params.platform, channelEnabled s.params f.execSize.maskCode i = true →
        RegFile.read u.rf (flatIndex s.params (operandGrf s.params f.dst + r) i) =
          .val (BitVec.ofInt 32 (((matC s.params (f.admitted (.int w a)) s.rf r i).toNat : Int) +
            rowSum s.params w a (f.admitted (.int w a)) s.rf r i))

/-- Where the exact integer `C + sum`, with `C` read in the type of `Src0`, lies in the range of the type of `Dst`, the result read
in the type of `Dst` is that integer (R149; D5, log 11). -/
def Obligations.IntegerResultsInRangeAreExact : Prop :=
  ∀ (w a : IntPrec) (f : Form) (s u : State) (r i : Nat) (c : Int) (x : Word),
    exec (kindRow (.int w a) f) s = .next u →
    r < f.rc.toNat → i < grfDw s.params.platform → channelEnabled s.params f.execSize.maskCode i = true →
    RegFile.read u.rf (flatIndex s.params (operandGrf s.params f.dst + r) i) = .val x →
    (f.src0.hasType [.d] = true → c = (matC s.params (f.admitted (.int w a)) s.rf r i).toInt) →
    (f.src0.hasType [.d] = false → c = (matC s.params (f.admitted (.int w a)) s.rf r i).toNat) →
    (f.dst.hasType [.d] = true → -(2 ^ 31) ≤ c + rowSum s.params w a (f.admitted (.int w a)) s.rf r i →
      c + rowSum s.params w a (f.admitted (.int w a)) s.rf r i < 2 ^ 31 →
      x.toInt = c + rowSum s.params w a (f.admitted (.int w a)) s.rf r i) ∧
    (f.dst.hasType [.ud] = true → 0 ≤ c + rowSum s.params w a (f.admitted (.int w a)) s.rf r i →
      c + rowSum s.params w a (f.admitted (.int w a)) s.rf r i < 2 ^ 32 →
      (x.toNat : Int) = c + rowSum s.params w a (f.admitted (.int w a)) s.rf r i)

/-- Two forms of one integer row that differ at most in declared types give one and the same next state (R148, D22). -/
def Obligations.DeclaredIntegerTypesDoNotMatter : Prop :=
  ∀ (w a : IntPrec) (f g : Form) (s u v : State), SameButTypes f g →
    exec (kindRow (.int w a) f) s = .next u → exec (kindRow (.int w a) g) s = .next v → u = v

/-- R151 (a): where every element of A in the row, or every element of B in the column, is zero, the result is `C`. -/
def Obligations.ZeroElementsLeaveTheAccumulator : Prop :=
  ∀ (w a : IntPrec) (f : Form) (s u : State) (r i : Nat),
    exec (kindRow (.int w a) f) s = .next u →
    r < f.rc.toNat → i < grfDw s.params.platform → channelEnabled s.params f.execSize.maskCode i = true →
    ((∀ kk < kindK (.int w a) 8, matA s.params (.int w a) (f.admitted (.int w a)) s.rf r kk = 0) ∨
      (∀ kk < kindK (.int w a) 8, matB s.params (.int w a) (f.admitted (.int w a)) s.rf kk i = 0)) →
    RegFile.read u.rf (flatIndex s.params (operandGrf s.params f.dst + r) i) =
      .val (matC s.params (f.admitted (.int w a)) s.rf r i)

/-- R130 (b), (j): an integer DPAS whose `Dst` is its `Src0`, executed twice, adds the products twice. -/
def Obligations.InPlaceDpasAccumulatesTwice : Prop :=
  ∀ (w a : IntPrec) (f : Form) (s u v : State), f.src0 ≠ .null →
    operandGrf s.params f.src0 = operandGrf s.params f.dst →
    exec (kindRow (.int w a) f) s = .next u → exec (kindRow (.int w a) f) u = .next v →
    ∀ r < f.rc.toNat, ∀ i < grfDw s.params.platform, channelEnabled s.params f.execSize.maskCode i = true →
      RegFile.read v.rf (flatIndex s.params (operandGrf s.params f.dst + r) i) =
        .val (BitVec.ofInt 32 (((matC s.params (f.admitted (.int w a)) s.rf r i).toNat : Int) +
          2 * rowSum s.params w a (f.admitted (.int w a)) s.rf r i))

/-! The float rows. -/

/-- `DPAS.bf.bf`, legal and with its sources holding values, completes; each enabled dword of `Dst` is eight nested applications
of `FDOT2ACC_bf`, stage 0 innermost, to the low and high halves of the dwords of R165 (R166, R167; the stage function is a free
value, log 12, and that the low half is element 0 is D4, log 10). -/
def Obligations.BfRowNestsEightStages : Prop :=
  ∀ (f : Form) (s : State), Legal s.params .bf (f.admitted .bf) → SourcesHeld s.params .bf (f.admitted .bf) s.rf →
    ∃ u, exec (.dpasBfBf f) s = .next u ∧ u.pc = s.pc + 1 ∧
      ∀ r < f.rc.toNat, ∀ i < grfDw s.params.platform, channelEnabled s.params f.execSize.maskCode i = true →
        let st := floatStageAt Config.fdot2accBf s.params (f.admitted .bf) s.rf r i
        RegFile.read u.rf (flatIndex s.params (operandGrf s.params f.dst + r) i) =
          .val (st 7 (st 6 (st 5 (st 4 (st 3 (st 2 (st 1 (st 0 (matC s.params (f.admitted .bf) s.rf r i)))))))))

/-- `DPAS.hf.hf`, as `BfRowNestsEightStages`, with `FDOT2ACC_hf`. -/
def Obligations.HfRowNestsEightStages : Prop :=
  ∀ (f : Form) (s : State), Legal s.params .hf (f.admitted .hf) → SourcesHeld s.params .hf (f.admitted .hf) s.rf →
    ∃ u, exec (.dpasHfHf f) s = .next u ∧ u.pc = s.pc + 1 ∧
      ∀ r < f.rc.toNat, ∀ i < grfDw s.params.platform, channelEnabled s.params f.execSize.maskCode i = true →
        let st := floatStageAt Config.fdot2accHf s.params (f.admitted .hf) s.rf r i
        RegFile.read u.rf (flatIndex s.params (operandGrf s.params f.dst + r) i) =
          .val (st 7 (st 6 (st 5 (st 4 (st 3 (st 2 (st 1 (st 0 (matC s.params (f.admitted .hf) s.rf r i)))))))))

/-- The worked example of R172 and an `hf` stage of the test vectors, for every stage function with the named property
`EXACT_WHEN_REPRESENTABLE` (R168), which is the spec's own proposal (log 21). -/
def Obligations.ExactStageFunctionsGiveTheExamples : Prop :=
  (∀ g, ExactWhenRepresentable bfFormat g → g 0x3F800000 0x3F80 0x4000 0x3F00 0x4040 = 0x40F00000) ∧
  (∀ g, ExactWhenRepresentable hfFormat g → g 0x41800000 0xC000 0x3C00 0x4000 0x4200 = 0x41700000)

/-! Every row: what is written, what is read, faults and refusals. -/

/-- The generic row, legal and with its sources holding values, completes: for each enabled dword of `Dst` there are the values
`temp` between the stages, from `C` on, each the stage function of the one before and of the elements of B and A of that stage,
and the last is written (R119, R120). -/
def Obligations.GenericRowRunsTheStages : Prop :=
  ∀ (k : Kind) (t : Dpas) (s : State), Legal s.params k t → SourcesHeld s.params k t s.rf →
    ∃ u, exec (.dpas t) s = .next u ∧ u.pc = s.pc + 1 ∧
      ∀ r < t.rc.toNat, ∀ i < grfDw s.params.platform, channelEnabled s.params t.execSize.maskCode i = true →
        ∃ temp : Nat → Word, temp 0 = matC s.params t s.rf r i ∧
          (∀ d < 8, temp (d + 1) = stage k (temp d)
            ((List.range (kindOps k)).map fun j => matB s.params k t s.rf (d * kindOps k + j) i)
            ((List.range (kindOps k)).map fun j => matA s.params k t s.rf r (d * kindOps k + j))) ∧
          RegFile.read u.rf (flatIndex s.params (operandGrf s.params t.dst + r) i) = .val (temp 8)

/-- Whatever the instruction, a next state differs from the state before at most in the dwords of `Dst` of the enabled channels,
and in `pc`, which is one more (R121, R127, R128; that a disabled channel keeps its dword is the spec's decision D7, log 7). -/
def Obligations.DpasChangesOnlyItsDestination : Prop :=
  ∀ (i : Instr) (s u : State), exec i s = .next u →
    u.pc = s.pc + 1 ∧ u.params = s.params ∧ u.prog = s.prog ∧ u.outcome = s.outcome ∧
    ∀ x, ¬ WritesDw s.params i.term x → RegFile.read u.rf x = RegFile.read s.rf x

/-- The `_NM` codes enable every channel (D7, log 7); a code `M1` to `M8` enables what its row of `ChEn` says, and no row of
another code has a part in it (R26, R67; log 6). -/
def Obligations.MaskCodesEnableTheirChannels : Prop :=
  ∀ (p : Params) (i : Nat),
    (∀ code : BitVec 4, 8 ≤ code.toNat → channelEnabled p code i = true) ∧
    channelEnabled p 0 i = p.chEn.m1.getLsbD i ∧ channelEnabled p 1 i = p.chEn.m2.getLsbD i ∧
    channelEnabled p 2 i = p.chEn.m3.getLsbD i ∧ channelEnabled p 3 i = p.chEn.m4.getLsbD i ∧
    channelEnabled p 4 i = p.chEn.m5.getLsbD i ∧ channelEnabled p 5 i = p.chEn.m6.getLsbD i ∧
    channelEnabled p 6 i = p.chEn.m7.getLsbD i ∧ channelEnabled p 7 i = p.chEn.m8.getLsbD i

/-- Two states with the same parameters whose register files agree on the source footprints give the same destination: what a
DPAS writes depends on nothing else (R23, R25, R45). -/
def Obligations.ResultDependsOnTheSourcesOnly : Prop :=
  ∀ (i : Instr) (s s' u : State), s'.params = s.params →
    (∀ k, dpasKind i.term = some k → ∀ x ∈ readCells s.params k i.term, RegFile.read s'.rf x = RegFile.read s.rf x) →
    exec i s = .next u →
    ∃ u', exec i s' = .next u' ∧ ∀ x, WritesDw s.params i.term x → RegFile.read u'.rf x = RegFile.read u.rf x

/-- R124: all rows of A multiply the one matrix B, so two rows with one row of C and one row of A have one row of D. -/
def Obligations.AllRowsMultiplyOneB : Prop :=
  ∀ (k : Kind) (i : Instr) (s u : State) (r r' : Nat), dpasKind i.term = some k → exec i s = .next u →
    r < i.term.rc.toNat → r' < i.term.rc.toNat →
    (∀ kk < kindK k 8, matA s.params k i.term s.rf r kk = matA s.params k i.term s.rf r' kk) →
    ∀ c < grfDw s.params.platform, channelEnabled s.params i.term.execSize.maskCode c = true →
      matC s.params i.term s.rf r c = matC s.params i.term s.rf r' c →
      RegFile.read u.rf (flatIndex s.params (operandGrf s.params i.term.dst + r) c) =
        RegFile.read u.rf (flatIndex s.params (operandGrf s.params i.term.dst + r') c)

/-- R123: every channel multiplies by the same elements of A, so two channels with one column of B and one element of C have one
element of D. -/
def Obligations.AllChannelsMultiplyOneA : Prop :=
  ∀ (k : Kind) (i : Instr) (s u : State) (c c' : Nat), dpasKind i.term = some k → exec i s = .next u →
    c < grfDw s.params.platform → c' < grfDw s.params.platform →
    channelEnabled s.params i.term.execSize.maskCode c = true →
    channelEnabled s.params i.term.execSize.maskCode c' = true →
    (∀ kk < kindK k 8, matB s.params k i.term s.rf kk c = matB s.params k i.term s.rf kk c') →
    ∀ r < i.term.rc.toNat, matC s.params i.term s.rf r c = matC s.params i.term s.rf r c' →
      RegFile.read u.rf (flatIndex s.params (operandGrf s.params i.term.dst + r) c) =
        RegFile.read u.rf (flatIndex s.params (operandGrf s.params i.term.dst + r) c')

/-- The pseudocode taken row by row, each row computed from what the rows before it left, ends with the register file of the
atomic step: the overlap rule R113 (D12, log 18) makes the two agree (R118, R125). -/
def Obligations.LiteralPseudocodeAgrees : Prop :=
  ∀ (k : Kind) (t : Dpas) (s u : State), dpasKind t = some k → exec (.dpas t) s = .next u →
    ∀ x, RegFile.read (literalRows s.params k t s.rf) x = RegFile.read u.rf x

/-- R130 (j): with `Dst` apart from every source, a second execution changes no register. -/
def Obligations.SeparateDestinationIsIdempotent : Prop :=
  ∀ (i : Instr) (s u v : State),
    (i.term.src0 = .null ∨ operandGrf s.params i.term.src0 ≠ operandGrf s.params i.term.dst) →
    exec i s = .next u → exec i u = .next v → ∀ x, RegFile.read v.rf x = RegFile.read u.rf x

/-- R126: a legal DPAS, in an admitted row or the generic one, faults when a dword of a source footprint bears the mark
`unwritten` (the spec's decision D14). -/
def Obligations.UnwrittenSourcesFault : Prop :=
  ∀ (k : Kind) (f : Form) (s : State), Legal s.params k (f.admitted k) → ¬ SourcesHeld s.params k (f.admitted k) s.rf →
    exec (kindRow k f) s = .fault .unwrittenRegister ∧ exec (.dpas (f.admitted k)) s = .fault .unwrittenRegister

/-- R117: the verdict admits a term with kind `k` exactly when every condition of the fifteen checks holds of it (D13). -/
def Obligations.VerdictAdmitsExactlyTheLegal : Prop :=
  ∀ (p : Params) (t : Dpas) (k : Kind), judge p t = .ok k ↔ Legal p k t

/-- R117, R181: a term that is legal in no kind is refused, in the generic row and in an admitted one, and the reason reported is
one that applies (D13). -/
def Obligations.IllegalTermsAreRefused : Prop :=
  (∀ (t : Dpas) (s : State), (∀ k, ¬ Legal s.params k t) →
    ∃ r, exec (.dpas t) s = .refused r ∧ ReasonApplies s.params t r) ∧
  (∀ (k : Kind) (f : Form) (s : State), ¬ Legal s.params k (f.admitted k) →
    ∃ r, exec (kindRow k f) s = .refused r ∧ ReasonApplies s.params (f.admitted k) r)

/-- The five rows of precisions that are refused stop on every operand and state (R71, R102, R104, R170; D16): the reason reported
applies, and the row's own reason applies. -/
def Obligations.RefusedPrecisionRowsStop : Prop :=
  (∀ (t : Dpas) (s : State), (Instr.dpasOneBit t).wf = true → ∃ r, exec (.dpasOneBit t) s = .refused r ∧
    ReasonApplies s.params t r ∧ ReasonApplies s.params t .unsupportedPrecision) ∧
  (∀ (f : Form) (sd : Byte) (s : State), ∃ r, exec (.dpasTf32Tf32 f sd) s = .refused r ∧
    ReasonApplies s.params (Instr.dpasTf32Tf32 f sd).term r ∧
    ReasonApplies s.params (Instr.dpasTf32Tf32 f sd).term .unsupportedPrecision) ∧
  (∀ (t : Dpas) (s : State), (Instr.dpasUnusedPrecision t).wf = true → ∃ r, exec (.dpasUnusedPrecision t) s = .refused r ∧
    ReasonApplies s.params t r ∧ ReasonApplies s.params t .badPrecision) ∧
  (∀ (t : Dpas) (s : State), (Instr.dpasUnassignedPrecision t).wf = true →
    ∃ r, exec (.dpasUnassignedPrecision t) s = .refused r ∧
      ReasonApplies s.params t r ∧ ReasonApplies s.params t .badPrecision) ∧
  (∀ (t : Dpas) (s : State), (Instr.dpasMixedPrecision t).wf = true → ∃ r, exec (.dpasMixedPrecision t) s = .refused r ∧
    ReasonApplies s.params t r ∧ ReasonApplies s.params t .precisionMismatch)

/-- The two rows of depths that are refused stop on every operand and state (R69, R104; D10, D16). -/
def Obligations.RefusedDepthRowsStop : Prop :=
  (∀ (t : Dpas) (s : State), (Instr.dpasShallowDepth t).wf = true → ∃ r, exec (.dpasShallowDepth t) s = .refused r ∧
    ReasonApplies s.params t r ∧ ReasonApplies s.params t .unsupportedDepth) ∧
  (∀ (t : Dpas) (s : State), (Instr.dpasOtherDepth t).wf = true → ∃ r, exec (.dpasOtherDepth t) s = .refused r ∧
    ReasonApplies s.params t r ∧ ReasonApplies s.params t .badDepth)

/-- The rows of a bad repeat count, an operand type without a layout and an `Exec_size` byte of no platform stop on every operand
and state (R66, R70, R104; D11, D16, D17). -/
def Obligations.RefusedCountTypeAndSizeRowsStop : Prop :=
  (∀ (t : Dpas) (s : State), (Instr.dpasBadRepeatCount t).wf = true → ∃ r, exec (.dpasBadRepeatCount t) s = .refused r ∧
    ReasonApplies s.params t r ∧ ReasonApplies s.params t .badRepeatCount) ∧
  (∀ (t : Dpas) (s : State), (Instr.dpasUnsupportedType t).wf = true → ∃ r, exec (.dpasUnsupportedType t) s = .refused r ∧
    ReasonApplies s.params t r ∧ ReasonApplies s.params t .unsupportedType) ∧
  (∀ (t : Dpas) (s : State), (Instr.dpasBadExecSize t).wf = true → ∃ r, exec (.dpasBadExecSize t) s = .refused r ∧
    ReasonApplies s.params t r ∧ ReasonApplies s.params t .badExecSize)
end

