-- ==== Sys2Proof/Laws/Decode.lean ====
section
/-! SUPPORT. The parts of the round trip between the encoder and the decoder: the `Exec_size` byte and one operand. -/

namespace Sys2Proof

@[simp] theorem execSizeOfByte_execSizeByte (e : ExecSize) : execSizeOfByte (execSizeByte e) = e := by
  obtain ⟨sz, b, m⟩ := e
  revert sz b m
  decide

@[simp] theorem operandBytes_length (o : Operand) : (operandBytes o).length = 4 := by
  cases o <;> rfl

/-- The tag of an operand that is not null is not zero, and holds the type and the modifier (log 13). -/
theorem operand_tag (ty : OpType) (m : Bool) :
    let tag : Byte := opTypeCode ty + (if m then 0x10 else 0)
    tag ≠ 0 ∧ opTypeOfCode (tag.toNat % 16) = ty ∧ decide (0x10 ≤ tag.toNat) = m := by
  cases ty <;> cases m <;> decide

/-- An encodable operand is resolved from its bytes. -/
theorem resolveOperand_operandBytes {o : Operand} (h : o.encodable = true) :
    resolveOperand (operandBytes o) = o := by
  cases o with
  | null => rfl
  | reg g d ty m =>
    simp only [Operand.encodable, Bool.and_eq_true, decide_eq_true_eq] at h
    obtain ⟨h0, h1, h2⟩ := operand_tag ty m
    have hd : (BitVec.ofNat 8 d).toNat = d := by simp; omega
    have hg : (BitVec.ofNat 8 (g / 256)).toNat * 256 + (BitVec.ofNat 8 g).toNat = g := by simp; omega
    simp only [operandBytes, resolveOperand, byteAt, List.getD_cons_zero, List.getD_cons_succ, h0, false_and, if_false,
      h1, h2, hd, hg]

/-- Whatever the bytes, what they resolve to has an encoding. -/
@[simp] theorem resolveOperand_encodable (bs : List Byte) : (resolveOperand bs).encodable = true := by
  simp only [resolveOperand]
  split
  · rfl
  · simp only [Operand.encodable, Bool.and_eq_true, decide_eq_true_eq]
    omega

/-- A tag without a modifier whose type code reads as other than `DF` is the code of its type. -/
theorem tag_of_type (tag : Byte) : decide (0x10 ≤ tag.toNat) = false → opTypeOfCode (tag.toNat % 16) ≠ .df →
    opTypeCode (opTypeOfCode (tag.toNat % 16)) + 0 = tag := by
  revert tag
  decide

/-- Four bytes that resolve to an operand with no modifier and another type than `DF` are the operand's own. -/
theorem operandBytes_resolveOperand {tag dw lo hi : Byte}
    (hm : ∀ g j ty m, resolveOperand [tag, dw, lo, hi] = .reg g j ty m → m = false ∧ ty ≠ .df) :
    operandBytes (resolveOperand [tag, dw, lo, hi]) = [tag, dw, lo, hi] := by
  simp only [resolveOperand, byteAt, List.getD_cons_zero, List.getD_cons_succ] at hm ⊢
  split
  · next h => simp [operandBytes, h]
  · next h =>
    obtain ⟨h1, h2⟩ := hm _ _ _ _ (if_neg h)
    have hg : (hi.toNat * 256 + lo.toNat) / 256 = hi.toNat := by omega
    have hl : BitVec.ofNat 8 (hi.toNat * 256 + lo.toNat) = lo := by
      apply BitVec.eq_of_toNat_eq
      simp
      omega
    have ht := tag_of_type tag h1 h2
    simp only [operandBytes, h1, hg, hl, BitVec.ofNat_toNat, BitVec.setWidth_eq]
    simpa using ht

/-- Every instruction has the length of R63 in the machine's layout. -/
theorem encodeTerm_length (t : Dpas) : (encodeTerm t).length = instrBytes operandLayout := by
  simp [encodeTerm, instrBytes, operandLayout]

end Sys2Proof
end

