-- ==== Sys2Proof/Laws/RegFile.lean ====
section
/-! SUPPORT. The register file as a store: a read after a write, and the canonical form, which every write keeps. -/

namespace Sys2Proof.Machine

@[simp] theorem RegFile.read_nil (y : Nat) : RegFile.read [] y = RegFile.unlisted := rfl

@[simp] theorem RegFile.read_cons (x : Nat) (v : Dw) (rf : RegFile) (y : Nat) :
    RegFile.read ((x, v) :: rf) y = if x = y then v else RegFile.read rf y := rfl

/-- A dword that is not listed reads as an unlisted one. -/
theorem RegFile.read_of_not_listed {rf : RegFile} {y : Nat} (h : ∀ c ∈ rf, c.1 ≠ y) :
    RegFile.read rf y = RegFile.unlisted := by
  induction rf with
  | nil => rfl
  | cons c rest ih =>
    obtain ⟨x, v⟩ := c
    have hx : x ≠ y := h (x, v) (by simp)
    simp [hx, ih fun c hc => h c (by simp [hc])]

theorem RegFile.not_listed_unlist (rf : RegFile) (x : Nat) : ∀ c ∈ RegFile.unlist rf x, c.1 ≠ x := by
  intro c hc
  simpa [RegFile.unlist] using (List.mem_filter.mp hc).2

@[simp] theorem RegFile.read_unlist_same (rf : RegFile) (x : Nat) :
    RegFile.read (RegFile.unlist rf x) x = RegFile.unlisted :=
  RegFile.read_of_not_listed (RegFile.not_listed_unlist rf x)

theorem RegFile.read_unlist_other (rf : RegFile) {x y : Nat} (h : y ≠ x) :
    RegFile.read (RegFile.unlist rf x) y = RegFile.read rf y := by
  induction rf with
  | nil => rfl
  | cons c rest ih =>
    obtain ⟨z, v⟩ := c
    by_cases hz : z = x
    · have hy : z ≠ y := by omega
      simpa [RegFile.unlist, hz, show x ≠ y by omega] using ih
    · simp only [RegFile.unlist, List.filter_cons, ne_eq, hz, not_false_eq_true, decide_true, if_true,
        RegFile.read_cons]
      split
      · rfl
      · exact ih

theorem RegFile.read_place_same {rf : RegFile} {x : Nat} {v : Dw} (h : ∀ c ∈ rf, c.1 ≠ x) :
    RegFile.read (RegFile.place x v rf) x = v := by
  induction rf with
  | nil => simp [RegFile.place]
  | cons c rest ih =>
    obtain ⟨z, w⟩ := c
    have hz : z ≠ x := h (z, w) (by simp)
    unfold RegFile.place
    split
    · simp
    · simp [hz, ih fun c hc => h c (by simp [hc])]

theorem RegFile.read_place_other (rf : RegFile) {x y : Nat} (v : Dw) (h : y ≠ x) :
    RegFile.read (RegFile.place x v rf) y = RegFile.read rf y := by
  induction rf with
  | nil => simp [RegFile.place, Ne.symm h]
  | cons c rest ih =>
    obtain ⟨z, w⟩ := c
    unfold RegFile.place
    split
    · simp [Ne.symm h]
    · simp [ih]

@[simp] theorem RegFile.read_write_same (rf : RegFile) (x : Nat) (v : Dw) :
    RegFile.read (RegFile.write rf x v) x = v := by
  unfold RegFile.write
  split
  · rename_i h; simp [h]
  · exact RegFile.read_place_same (RegFile.not_listed_unlist rf x)

theorem RegFile.read_write_other (rf : RegFile) {x y : Nat} (v : Dw) (h : y ≠ x) :
    RegFile.read (RegFile.write rf x v) y = RegFile.read rf y := by
  unfold RegFile.write
  split
  · exact RegFile.read_unlist_other rf h
  · rw [RegFile.read_place_other _ v h, RegFile.read_unlist_other rf h]

theorem RegFile.mem_unlist {rf : RegFile} {x : Nat} {c : Nat × Dw} (h : c ∈ RegFile.unlist rf x) : c ∈ rf :=
  (List.mem_filter.mp h).1

theorem RegFile.mem_place {rf : RegFile} {x : Nat} {v : Dw} {c : Nat × Dw} (h : c ∈ RegFile.place x v rf) :
    c = (x, v) ∨ c ∈ rf := by
  induction rf with
  | nil => simpa [RegFile.place] using h
  | cons d rest ih =>
    unfold RegFile.place at h
    split at h
    · simpa using h
    · rcases List.mem_cons.mp h with h | h
      · simp [h]
      · rcases ih h with h | h <;> simp [h]

theorem RegFile.pairwise_place {rf : RegFile} {x : Nat} {v : Dw}
    (hp : List.Pairwise (fun c d : Nat × Dw => c.1 < d.1) rf) (hx : ∀ c ∈ rf, c.1 ≠ x) :
    List.Pairwise (fun c d : Nat × Dw => c.1 < d.1) (RegFile.place x v rf) := by
  induction rf with
  | nil => simp [RegFile.place]
  | cons d rest ih =>
    have hd := List.pairwise_cons.mp hp
    unfold RegFile.place
    split
    · rename_i hlt
      refine List.pairwise_cons.mpr ⟨fun c hc => ?_, hp⟩
      rcases List.mem_cons.mp hc with rfl | hc
      · exact hlt
      · exact hlt.trans (hd.1 c hc)
    · rename_i hnlt
      refine List.pairwise_cons.mpr ⟨fun c hc => ?_, ih hd.2 fun c hc => hx c (by simp [hc])⟩
      rcases RegFile.mem_place hc with rfl | hc
      · exact lt_of_le_of_ne (Nat.le_of_not_lt hnlt) (hx d (by simp))
      · exact hd.1 c hc

/-- A write keeps the canonical form. -/
theorem RegFile.wf_write {rf : RegFile} (h : RegFile.wf rf) (x : Nat) (v : Dw) : RegFile.wf (RegFile.write rf x v) := by
  have hp : List.Pairwise (fun c d : Nat × Dw => c.1 < d.1) (RegFile.unlist rf x) := h.1.filter _
  have hu : ∀ c ∈ RegFile.unlist rf x, c.2 ≠ RegFile.unlisted := fun c hc => h.2 c (RegFile.mem_unlist hc)
  unfold RegFile.write
  split
  · exact ⟨hp, hu⟩
  · rename_i hv
    refine ⟨RegFile.pairwise_place hp (RegFile.not_listed_unlist rf x), fun c hc => ?_⟩
    rcases RegFile.mem_place hc with rfl | hc
    · exact hv
    · exact hu c hc

/-- A write lists no index but its own and those listed before. -/
theorem RegFile.mem_write {rf : RegFile} {x : Nat} {v : Dw} {c : Nat × Dw} (h : c ∈ RegFile.write rf x v) :
    c = (x, v) ∨ c ∈ rf := by
  unfold RegFile.write at h
  split at h
  · exact .inr (RegFile.mem_unlist h)
  · exact (RegFile.mem_place h).imp_right RegFile.mem_unlist

@[simp] theorem RegFile.writeAll_nil (rf : RegFile) : RegFile.writeAll rf [] = rf := rfl

@[simp] theorem RegFile.writeAll_cons (rf : RegFile) (c : Nat × Dw) (cells : List (Nat × Dw)) :
    RegFile.writeAll rf (c :: cells) = RegFile.writeAll (RegFile.write rf c.1 c.2) cells := rfl

theorem RegFile.writeAll_append (rf : RegFile) (xs ys : List (Nat × Dw)) :
    RegFile.writeAll rf (xs ++ ys) = RegFile.writeAll (RegFile.writeAll rf xs) ys :=
  List.foldl_append ..

theorem RegFile.wf_writeAll {rf : RegFile} (h : RegFile.wf rf) (cells : List (Nat × Dw)) :
    RegFile.wf (RegFile.writeAll rf cells) := by
  induction cells generalizing rf with
  | nil => exact h
  | cons c cells ih => exact ih (RegFile.wf_write h c.1 c.2)

theorem RegFile.mem_writeAll {rf : RegFile} {cells : List (Nat × Dw)} {c : Nat × Dw}
    (h : c ∈ RegFile.writeAll rf cells) : c ∈ cells ∨ c ∈ rf := by
  induction cells generalizing rf with
  | nil => exact .inr h
  | cons d cells ih =>
    rcases ih h with h | h
    · exact .inl (by simp [h])
    · rcases RegFile.mem_write h with rfl | h
      · exact .inl (by simp)
      · exact .inr h

/-- A dword that no cell names is left as it was. -/
theorem RegFile.read_writeAll_other {rf : RegFile} {cells : List (Nat × Dw)} {y : Nat} (h : ∀ c ∈ cells, c.1 ≠ y) :
    RegFile.read (RegFile.writeAll rf cells) y = RegFile.read rf y := by
  induction cells generalizing rf with
  | nil => rfl
  | cons c cells ih =>
    rw [RegFile.writeAll_cons, ih fun d hd => h d (by simp [hd]),
      RegFile.read_write_other rf c.2 (Ne.symm (h c (by simp)))]

/-- Where all cells that name a dword give it one value, it ends with that value. -/
theorem RegFile.read_writeAll_mem {rf : RegFile} {cells : List (Nat × Dw)} {y : Nat} {v : Dw}
    (hm : (y, v) ∈ cells) (hu : ∀ c ∈ cells, c.1 = y → c.2 = v) :
    RegFile.read (RegFile.writeAll rf cells) y = v := by
  induction cells generalizing rf with
  | nil => simp at hm
  | cons c cells ih =>
    rw [RegFile.writeAll_cons]
    by_cases hin : (y, v) ∈ cells
    · exact ih hin fun d hd => hu d (by simp [hd])
    · have hc : c = (y, v) := by simpa [hin, eq_comm] using hm
      subst hc
      by_cases hother : ∀ d ∈ cells, d.1 ≠ y
      · rw [RegFile.read_writeAll_other hother]; simp
      · push Not at hother
        obtain ⟨d, hd, hdy⟩ := hother
        have hd2 := hu d (by simp [hd]) hdy
        exact absurd (by rw [← hdy, ← hd2]; exact hd) hin

end Sys2Proof.Machine
end

