-- ==== Sys2Proof/Laws/State.lean ====
section
/-! SUPPORT. One lemma per field for each update of the state. -/

namespace Sys2Proof.Machine

variable (s : State) (cells : List (Nat × Dw)) (bs : List Byte)

@[simp] theorem State.retire_params : (s.retire cells).params = s.params := rfl
@[simp] theorem State.retire_prog : (s.retire cells).prog = s.prog := rfl
@[simp] theorem State.retire_rf : (s.retire cells).rf = RegFile.writeAll s.rf cells := rfl
@[simp] theorem State.retire_pc : (s.retire cells).pc = s.pc + 1 := rfl
@[simp] theorem State.retire_outcome : (s.retire cells).outcome = s.outcome := rfl

@[simp] theorem State.placeSlot_params : (s.placeSlot bs).params = s.params := rfl
@[simp] theorem State.placeSlot_rf : (s.placeSlot bs).rf = s.rf := rfl
@[simp] theorem State.placeSlot_pc : (s.placeSlot bs).pc = s.pc := rfl
@[simp] theorem State.placeSlot_outcome : (s.placeSlot bs).outcome = .running := rfl

@[simp] theorem State.settle_params : s.settle.params = s.params := by unfold State.settle; split <;> rfl
@[simp] theorem State.settle_prog : s.settle.prog = s.prog := by unfold State.settle; split <;> rfl
@[simp] theorem State.settle_rf : s.settle.rf = s.rf := by unfold State.settle; split <;> rfl
@[simp] theorem State.settle_pc : s.settle.pc = s.pc := by unfold State.settle; split <;> rfl

@[simp] theorem State.settle_outcome :
    s.settle.outcome = if s.pc = s.prog.length then .ended else s.outcome := by
  unfold State.settle; split <;> rfl

/-- After a load, the slot at `pc` holds the bytes placed. -/
theorem State.placeSlot_slot : (s.placeSlot bs).prog[s.pc]? = some bs := by
  simp [State.placeSlot, List.getElem?_set]
  omega

end Sys2Proof.Machine
end

