-- ==== Sys2Proof/Laws/Dpas.lean ====
section
/-! SUPPORT. What the shared meaning of a DPAS can do, said once: the verdict, the next state, the dwords it writes; and the two
inversion lemmas, of `exec` and of `step`. -/

namespace Sys2Proof.Machine

theorem grfDw_pos (q : Platform) : 0 < grfDw q := by cases q <;> decide

/-- Two dwords `(g, i)` and `(h, j)` of the 2-D view with one flat index are one dword (R21). -/
theorem flat_inj {n g h i j : Nat} (hi : i < n) (hj : j < n) (e : g * n + i = h * n + j) : g = h ∧ i = j := by
  have hn : 0 < n := by omega
  have hg : g = h := by
    have := congrArg (· / n) e
    simpa [Nat.add_div_of_dvd_right, Nat.mul_div_cancel _ hn, Nat.div_eq_of_lt hi, Nat.div_eq_of_lt hj,
      Nat.add_comm, Nat.add_mul_div_right _ _ hn] using this
  subst hg
  exact ⟨rfl, by omega⟩

theorem firstFailing_eq_none {cs : List (Bool × Refusal)} : firstFailing cs = none ↔ ∀ c ∈ cs, c.1 = true := by
  simp [firstFailing]

theorem firstFailing_eq_some {cs : List (Bool × Refusal)} {r : Refusal} (h : firstFailing cs = some r) :
    (false, r) ∈ cs := by
  obtain ⟨c, hc, rfl⟩ := Option.map_eq_some_iff.mp h
  have h1 := List.find?_some hc
  have h2 := List.mem_of_find?_eq_some hc
  obtain ⟨b, r⟩ := c
  cases b
  · exact h2
  · simp at h1

/-- What it takes for a term to be admitted: every check of R117 passes. -/
theorem judge_eq_ok {p : Params} {t : Dpas} {k : Kind} :
    judge p t = .ok k ↔
      execSizeOk p t = true ∧ precisionRowsOk t = true ∧ precisionsSupportedOk t = true ∧ dpasKind t = some k ∧
        ∀ c ∈ kindChecks p k t, c.1 = true := by
  unfold judge
  cases h1 : execSizeOk p t
  · simp
  cases h2 : precisionRowsOk t
  · simp
  cases h3 : precisionsSupportedOk t
  · simp
  cases h4 : dpasKind t with
  | none => simp
  | some k' =>
    cases h5 : firstFailing (kindChecks p k' t) with
    | none =>
      constructor
      · intro h
        obtain rfl : k' = k := by simpa [h5] using h
        exact ⟨rfl, rfl, rfl, rfl, firstFailing_eq_none.mp h5⟩
      · rintro ⟨-, -, -, h, -⟩
        obtain rfl : k' = k := by simpa using h
        simp [h5]
    | some r =>
      constructor
      · intro h
        simp [h5] at h
      · rintro ⟨-, -, -, h, hc⟩
        obtain rfl : k' = k := by simpa using h
        simp [firstFailing_eq_none.mpr hc] at h5

/-- The checks an admitted term of kind `k` passes, by name. -/
theorem judge_checks {p : Params} {t : Dpas} {k : Kind} (h : judge p t = .ok k) :
    t.sd = 8 ∧ repeatOk p t = true ∧ nullOk t = true ∧ typesOk k t = true ∧ alignOk p k t = true ∧
      rangeOk p k t = true ∧ overlapOk p k t = true ∧ platformOk p t = true := by
  have hc := (judge_eq_ok.mp h).2.2.2.2
  simp [kindChecks] at hc
  simp [depthSupportedOk] at hc
  tauto

/-- What `runDpas` answers, in all its cases. -/
theorem runDpas_eq (t : Dpas) (s : State) :
    (∃ r, judge s.params t = .error r ∧ runDpas t s = .refused r) ∨
      (∃ k, judge s.params t = .ok k ∧ sourcesWritten s.params k t s.rf = true ∧
        runDpas t s = .next (s.retire (newCells s.params k t s.rf))) ∨
      (∃ k, judge s.params t = .ok k ∧ sourcesWritten s.params k t s.rf = false ∧
        runDpas t s = .fault .unwrittenRegister) := by
  unfold runDpas
  cases hj : judge s.params t with
  | error r => exact .inl ⟨r, rfl, rfl⟩
  | ok k =>
    by_cases hw : sourcesWritten s.params k t s.rf = true
    · exact .inr (.inl ⟨k, rfl, hw, by simp [hw]⟩)
    · exact .inr (.inr ⟨k, rfl, by simpa using hw, by simp [hw]⟩)

theorem runDpas_next {t : Dpas} {s u : State} (h : runDpas t s = .next u) :
    ∃ k, judge s.params t = .ok k ∧ sourcesWritten s.params k t s.rf = true ∧
      u = s.retire (newCells s.params k t s.rf) := by
  rcases runDpas_eq t s with ⟨r, -, he⟩ | ⟨k, hj, hw, he⟩ | ⟨k, -, -, he⟩
  · simp [he] at h
  · exact ⟨k, hj, hw, by simpa [he, eq_comm] using h⟩
  · simp [he] at h

theorem runDpas_of_ok {t : Dpas} {s : State} {k : Kind} (hj : judge s.params t = .ok k)
    (hw : sourcesWritten s.params k t s.rf = true) :
    runDpas t s = .next (s.retire (newCells s.params k t s.rf)) := by
  simp [runDpas, hj, hw]

/-- A row of refused forms always refuses. -/
theorem stopDpas_refuses (t : Dpas) (why : Refusal) (s : State) : ∃ r, stopDpas t why s = .refused r := by
  unfold stopDpas
  cases judge s.params t
  · exact ⟨_, rfl⟩
  · exact ⟨_, rfl⟩

/-- Each of the 38 admitted rows is the shared meaning of its term. -/
theorem exec_kindRow (k : Kind) (f : Form) (s : State) : exec (kindRow k f) s = runDpas (f.admitted k) s := by
  cases k with
  | int w a => cases w <;> cases a <;> rfl
  | bf => rfl
  | hf => rfl

@[simp] theorem kindRow_term (k : Kind) (f : Form) : (kindRow k f).term = f.admitted k := by
  cases k with
  | int w a => cases w <;> cases a <;> rfl
  | bf => rfl
  | hf => rfl

/-- The kind of an admitted row's term is the row's. -/
@[simp] theorem dpasKind_admitted (k : Kind) (f : Form) : dpasKind (f.admitted k) = some k := by
  cases k with
  | int w a => cases w <;> cases a <;> rfl
  | bf => rfl
  | hf => rfl

/-- Whatever the instruction, a next state is the one the shared meaning gives its term. -/
theorem exec_next {i : Instr} {s u : State} (h : exec i s = .next u) : runDpas i.term s = .next u := by
  have stop : ∀ {t why}, stopDpas t why s = .next u → runDpas i.term s = .next u := by
    intro t why h
    obtain ⟨r, hr⟩ := stopDpas_refuses t why s
    simp [hr] at h
  cases i <;> first | exact h | exact stop h

/-- The dwords a DPAS writes: the enabled channels of each row of `Dst` (R119, R121). -/
theorem mem_newCells {p : Params} {k : Kind} {t : Dpas} {rf : RegFile} {c : Nat × Dw} :
    c ∈ newCells p k t rf ↔
      ∃ r < t.rc.toNat, ∃ i < grfDw p.platform, channelEnabled p t.execSize.maskCode i = true ∧
        c = ((operandGrf p t.dst + r) * grfDw p.platform + i, .val (resultAt p k t rf r i)) := by
  simp only [newCells, rowCells, List.mem_flatMap, List.mem_range, List.mem_map, List.mem_filter]
  constructor
  · rintro ⟨r, hr, i, ⟨hi, he⟩, rfl⟩; exact ⟨r, hr, i, hi, he, rfl⟩
  · rintro ⟨r, hr, i, hi, he, rfl⟩; exact ⟨r, hr, i, ⟨hi, he⟩, rfl⟩

/-- An enabled dword of `Dst` ends with the output of the last stage. -/
theorem read_newCells {p : Params} {k : Kind} {t : Dpas} {rf : RegFile} {r i : Nat} (hr : r < t.rc.toNat)
    (hi : i < grfDw p.platform) (he : channelEnabled p t.execSize.maskCode i = true) :
    RegFile.read (RegFile.writeAll rf (newCells p k t rf)) ((operandGrf p t.dst + r) * grfDw p.platform + i) =
      .val (resultAt p k t rf r i) := by
  refine RegFile.read_writeAll_mem (mem_newCells.mpr ⟨r, hr, i, hi, he, rfl⟩) fun c hc hx => ?_
  obtain ⟨r', -, i', hi', -, rfl⟩ := mem_newCells.mp hc
  obtain ⟨hg, rfl⟩ := flat_inj hi' hi hx
  obtain rfl : r' = r := by omega
  rfl

/-- Every other dword is left as it was. -/
theorem read_newCells_other {p : Params} {k : Kind} {t : Dpas} {rf : RegFile} {x : Nat}
    (h : ∀ r < t.rc.toNat, ∀ i < grfDw p.platform, channelEnabled p t.execSize.maskCode i = true →
      x ≠ (operandGrf p t.dst + r) * grfDw p.platform + i) :
    RegFile.read (RegFile.writeAll rf (newCells p k t rf)) x = RegFile.read rf x := by
  refine RegFile.read_writeAll_other fun c hc hx => ?_
  obtain ⟨r, hr, i, hi, he, rfl⟩ := mem_newCells.mp hc
  exact h r hr i hi he hx.symm

/-- What a step that answers a next state has done. -/
theorem step_next {s t : State} (h : step s = .next t) :
    s.outcome = .running ∧
      ((∃ i u, s.fetch = .instr i ∧ exec i s = .next u ∧ t = u.settle) ∨
        (s.fetch = .endOfProgram ∧ t = s.settle)) := by
  unfold step at h
  cases ho : s.outcome with
  | running =>
    simp only [ho, runStep] at h
    refine ⟨rfl, ?_⟩
    cases hf : s.fetch with
    | instr i =>
      simp only [hf] at h
      cases he : exec i s with
      | next u =>
        simp only [he, settleOutcome, Host.Outcome.next.injEq] at h
        exact .inl ⟨i, u, rfl, he, h.symm⟩
      | fault r => simp [he, settleOutcome] at h
      | refused r => simp [he, settleOutcome] at h
    | reject r => simp [hf] at h
    | endOfProgram => exact .inr ⟨rfl, by simpa [hf, eq_comm] using h⟩
    | pastEnd => simp [hf] at h
  | ended => simp [ho] at h
  | refused r => simp [ho] at h
  | faulted r => simp [ho] at h

/-- A fetched instruction stands inside the program. -/
theorem fetch_instr {s : State} {i : Instr} (h : s.fetch = .instr i) : s.pc < s.prog.length := by
  unfold State.fetch at h
  cases hg : s.prog[s.pc]? with
  | none => rw [hg] at h; dsimp at h; split at h <;> simp at h
  | some bs => exact (List.getElem?_eq_some_iff.mp hg).1

theorem fetch_endOfProgram {s : State} (h : s.fetch = .endOfProgram) : s.pc = s.prog.length := by
  unfold State.fetch at h
  cases hg : s.prog[s.pc]? with
  | none => rw [hg] at h; dsimp at h; split at h <;> simp_all
  | some bs => rw [hg] at h; dsimp at h; split at h <;> simp at h

end Sys2Proof.Machine
end

