-- ==== Sys2Proof/Laws/PerInstr.lean ====
section
/-! SUPPORT. Facts about every instruction as syntax, one lemma a constructor. -/

namespace Sys2Proof.Laws.SlotShape

/-- The bytes of an instruction are as many as R63 says, and the first is the opcode `0x83` (R60). -/
def Statement (i : Instr) : Prop :=
  (encode i).length = instrBytes operandLayout ∧ (encode i).head? = some 0x83

/-- The bytes of a term have this shape, whatever its row. -/
theorem of_term (i : Instr) : Statement i :=
  ⟨encodeTerm_length i.term, rfl⟩

theorem dpas (t : Dpas) : Statement (.dpas t) := of_term _
theorem dpasU2U2 (f : Form) : Statement (.dpasU2U2 f) := of_term _
theorem dpasU2S2 (f : Form) : Statement (.dpasU2S2 f) := of_term _
theorem dpasU2U4 (f : Form) : Statement (.dpasU2U4 f) := of_term _
theorem dpasU2S4 (f : Form) : Statement (.dpasU2S4 f) := of_term _
theorem dpasU2U8 (f : Form) : Statement (.dpasU2U8 f) := of_term _
theorem dpasU2S8 (f : Form) : Statement (.dpasU2S8 f) := of_term _
theorem dpasS2U2 (f : Form) : Statement (.dpasS2U2 f) := of_term _
theorem dpasS2S2 (f : Form) : Statement (.dpasS2S2 f) := of_term _
theorem dpasS2U4 (f : Form) : Statement (.dpasS2U4 f) := of_term _
theorem dpasS2S4 (f : Form) : Statement (.dpasS2S4 f) := of_term _
theorem dpasS2U8 (f : Form) : Statement (.dpasS2U8 f) := of_term _
theorem dpasS2S8 (f : Form) : Statement (.dpasS2S8 f) := of_term _
theorem dpasU4U2 (f : Form) : Statement (.dpasU4U2 f) := of_term _
theorem dpasU4S2 (f : Form) : Statement (.dpasU4S2 f) := of_term _
theorem dpasU4U4 (f : Form) : Statement (.dpasU4U4 f) := of_term _
theorem dpasU4S4 (f : Form) : Statement (.dpasU4S4 f) := of_term _
theorem dpasU4U8 (f : Form) : Statement (.dpasU4U8 f) := of_term _
theorem dpasU4S8 (f : Form) : Statement (.dpasU4S8 f) := of_term _
theorem dpasS4U2 (f : Form) : Statement (.dpasS4U2 f) := of_term _
theorem dpasS4S2 (f : Form) : Statement (.dpasS4S2 f) := of_term _
theorem dpasS4U4 (f : Form) : Statement (.dpasS4U4 f) := of_term _
theorem dpasS4S4 (f : Form) : Statement (.dpasS4S4 f) := of_term _
theorem dpasS4U8 (f : Form) : Statement (.dpasS4U8 f) := of_term _
theorem dpasS4S8 (f : Form) : Statement (.dpasS4S8 f) := of_term _
theorem dpasU8U2 (f : Form) : Statement (.dpasU8U2 f) := of_term _
theorem dpasU8S2 (f : Form) : Statement (.dpasU8S2 f) := of_term _
theorem dpasU8U4 (f : Form) : Statement (.dpasU8U4 f) := of_term _
theorem dpasU8S4 (f : Form) : Statement (.dpasU8S4 f) := of_term _
theorem dpasU8U8 (f : Form) : Statement (.dpasU8U8 f) := of_term _
theorem dpasU8S8 (f : Form) : Statement (.dpasU8S8 f) := of_term _
theorem dpasS8U2 (f : Form) : Statement (.dpasS8U2 f) := of_term _
theorem dpasS8S2 (f : Form) : Statement (.dpasS8S2 f) := of_term _
theorem dpasS8U4 (f : Form) : Statement (.dpasS8U4 f) := of_term _
theorem dpasS8S4 (f : Form) : Statement (.dpasS8S4 f) := of_term _
theorem dpasS8U8 (f : Form) : Statement (.dpasS8U8 f) := of_term _
theorem dpasS8S8 (f : Form) : Statement (.dpasS8S8 f) := of_term _
theorem dpasBfBf (f : Form) : Statement (.dpasBfBf f) := of_term _
theorem dpasHfHf (f : Form) : Statement (.dpasHfHf f) := of_term _
theorem dpasOneBit (t : Dpas) : Statement (.dpasOneBit t) := of_term _
theorem dpasTf32Tf32 (f : Form) (sd : Byte) : Statement (.dpasTf32Tf32 f sd) := of_term _
theorem dpasUnusedPrecision (t : Dpas) : Statement (.dpasUnusedPrecision t) := of_term _
theorem dpasUnassignedPrecision (t : Dpas) : Statement (.dpasUnassignedPrecision t) := of_term _
theorem dpasMixedPrecision (t : Dpas) : Statement (.dpasMixedPrecision t) := of_term _
theorem dpasShallowDepth (t : Dpas) : Statement (.dpasShallowDepth t) := of_term _
theorem dpasOtherDepth (t : Dpas) : Statement (.dpasOtherDepth t) := of_term _
theorem dpasBadRepeatCount (t : Dpas) : Statement (.dpasBadRepeatCount t) := of_term _
theorem dpasUnsupportedType (t : Dpas) : Statement (.dpasUnsupportedType t) := of_term _
theorem dpasBadExecSize (t : Dpas) : Statement (.dpasBadExecSize t) := of_term _

end Sys2Proof.Laws.SlotShape
end

