-- ==== Sys2Proof/Tests/Slice0.lean ====
section
/-! SUPPORT. Tests, with expected results from the spec's encoding tables (30_encoding.md) and its test vectors (95_test_vectors.md,
named V, P and by section), and a witness for the hypotheses of each statement. -/

namespace Sys2Proof.Tests

open Sys2Proof.Machine

/-! Small states and terms. -/

/-- The parameters of the test vectors on a platform: `NGRF = 128`, `RC_MAX = 8`, and the premise of V11 on `ChEn`: `M1` enables
channels 0 to 3. -/
def params (q : Platform) : Params where
  platform := q
  ngrf := 128
  rcMax := 8
  chEn := { m1 := 0x000F, m2 := 0, m3 := 0, m4 := 0, m5 := 0, m6 := 0, m7 := 0, m8 := 0 }
  platformRefuses := []

/-- A running state with the given dwords, listed by rising index; every other dword holds 0. -/
def stateOf (q : Platform) (cells : List (Nat × Dw)) : State where
  params := params q
  prog := []
  rf := cells.filter fun c => c.2 ≠ RegFile.unlisted
  pc := 0
  outcome := .running

/-- Consecutive dwords from a flat index on. -/
def dws (start : Nat) (ws : List Nat) : List (Nat × Dw) :=
  (List.range' start ws.length).zip (ws.map fun w => Dw.val (BitVec.ofNat 32 w))

/-- `n` dwords of one value from a flat index on. -/
def fill (start n w : Nat) : List (Nat × Dw) :=
  dws start (List.replicate n w)

/-- An operand of type D at DW 0 of a GRF, without a modifier. -/
def reg (g : Nat) : Operand :=
  .reg g 0 .d false

/-- The base form of section 2.7: `(M1_NM, 8) r20:d r10:d r30:ud r40.0:d`, `RC = 2`. -/
def baseForm : Form where
  execSize := { sizeCode := 3, bit3 := 0, maskCode := 8 }
  dst := reg 20
  src0 := reg 10
  src1 := .reg 30 0 .ud false
  src2 := reg 40
  rc := 2

/-- The base form with a null `Src0` and one row. -/
def rowForm : Form :=
  { baseForm with src0 := .null, rc := 1 }

/-- The form of the float vectors: `Dst` of type F, null `Src0`, one row. -/
def floatForm : Form :=
  { rowForm with dst := .reg 20 0 .f false }

/-- The base term of section 2.7: `DPAS.u8.s8.8.2`. -/
def baseTerm : Dpas :=
  baseForm.admitted (.int .u8 .s8)

/-- A dword of the register file after one instruction. -/
def dwAfter (i : Instr) (s : State) (x : Nat) : Option Dw :=
  match exec i s with
  | .next u => some (RegFile.read u.rf x)
  | _ => none

/-- The value of a dword after one instruction is as expected. -/
def gives (i : Instr) (s : State) (x w : Nat) : Bool :=
  dwAfter i s x == some (.val (BitVec.ofNat 32 w))

/-- The reason a term is refused for. -/
def verdict (q : Platform) (t : Dpas) : Option Refusal :=
  match judge (params q) t with
  | .error r => some r
  | .ok _ => none

/-- Sixteen bytes of operands in the model's layout (log 13): `r20:d`, `r10:d`, `r30:ud`, `r40.0:d`. -/
def opBytes : List Byte :=
  [1, 0, 20, 0] ++ [1, 0, 10, 0] ++ [2, 0, 30, 0] ++ [1, 0, 40, 0]

/-- Sixteen bytes of operands with `Dst` and `Src0` of type F. -/
def opBytesF : List Byte :=
  [3, 0, 20, 0] ++ [3, 0, 10, 0] ++ [2, 0, 30, 0] ++ [1, 0, 40, 0]

/-! Decoding: one word for each row, from the field order of R61 and the codes of R66 to R70. -/

theorem test_decode_u2_u2 :
    decode ([0x83, 0x83] ++ opBytes ++ [0x03, 0x03, 0x08, 0x02]) = .ok (.dpasU2U2 baseForm) := by decide

theorem test_decode_u2_s2 :
    decode ([0x83, 0x83] ++ opBytes ++ [0x03, 0x04, 0x08, 0x02]) = .ok (.dpasU2S2 baseForm) := by decide

theorem test_decode_u2_u4 :
    decode ([0x83, 0x83] ++ opBytes ++ [0x03, 0x05, 0x08, 0x02]) = .ok (.dpasU2U4 baseForm) := by decide

theorem test_decode_u2_s4 :
    decode ([0x83, 0x83] ++ opBytes ++ [0x03, 0x06, 0x08, 0x02]) = .ok (.dpasU2S4 baseForm) := by decide

theorem test_decode_u2_u8 :
    decode ([0x83, 0x83] ++ opBytes ++ [0x03, 0x07, 0x08, 0x02]) = .ok (.dpasU2U8 baseForm) := by decide

theorem test_decode_u2_s8 :
    decode ([0x83, 0x83] ++ opBytes ++ [0x03, 0x08, 0x08, 0x02]) = .ok (.dpasU2S8 baseForm) := by decide

theorem test_decode_s2_u2 :
    decode ([0x83, 0x83] ++ opBytes ++ [0x04, 0x03, 0x08, 0x02]) = .ok (.dpasS2U2 baseForm) := by decide

theorem test_decode_s2_s2 :
    decode ([0x83, 0x83] ++ opBytes ++ [0x04, 0x04, 0x08, 0x02]) = .ok (.dpasS2S2 baseForm) := by decide

theorem test_decode_s2_u4 :
    decode ([0x83, 0x83] ++ opBytes ++ [0x04, 0x05, 0x08, 0x02]) = .ok (.dpasS2U4 baseForm) := by decide

theorem test_decode_s2_s4 :
    decode ([0x83, 0x83] ++ opBytes ++ [0x04, 0x06, 0x08, 0x02]) = .ok (.dpasS2S4 baseForm) := by decide

theorem test_decode_s2_u8 :
    decode ([0x83, 0x83] ++ opBytes ++ [0x04, 0x07, 0x08, 0x02]) = .ok (.dpasS2U8 baseForm) := by decide

theorem test_decode_s2_s8 :
    decode ([0x83, 0x83] ++ opBytes ++ [0x04, 0x08, 0x08, 0x02]) = .ok (.dpasS2S8 baseForm) := by decide

theorem test_decode_u4_u2 :
    decode ([0x83, 0x83] ++ opBytes ++ [0x05, 0x03, 0x08, 0x02]) = .ok (.dpasU4U2 baseForm) := by decide

theorem test_decode_u4_s2 :
    decode ([0x83, 0x83] ++ opBytes ++ [0x05, 0x04, 0x08, 0x02]) = .ok (.dpasU4S2 baseForm) := by decide

theorem test_decode_u4_u4 :
    decode ([0x83, 0x83] ++ opBytes ++ [0x05, 0x05, 0x08, 0x02]) = .ok (.dpasU4U4 baseForm) := by decide

theorem test_decode_u4_s4 :
    decode ([0x83, 0x83] ++ opBytes ++ [0x05, 0x06, 0x08, 0x02]) = .ok (.dpasU4S4 baseForm) := by decide

theorem test_decode_u4_u8 :
    decode ([0x83, 0x83] ++ opBytes ++ [0x05, 0x07, 0x08, 0x02]) = .ok (.dpasU4U8 baseForm) := by decide

theorem test_decode_u4_s8 :
    decode ([0x83, 0x83] ++ opBytes ++ [0x05, 0x08, 0x08, 0x02]) = .ok (.dpasU4S8 baseForm) := by decide

theorem test_decode_s4_u2 :
    decode ([0x83, 0x83] ++ opBytes ++ [0x06, 0x03, 0x08, 0x02]) = .ok (.dpasS4U2 baseForm) := by decide

theorem test_decode_s4_s2 :
    decode ([0x83, 0x83] ++ opBytes ++ [0x06, 0x04, 0x08, 0x02]) = .ok (.dpasS4S2 baseForm) := by decide

theorem test_decode_s4_u4 :
    decode ([0x83, 0x83] ++ opBytes ++ [0x06, 0x05, 0x08, 0x02]) = .ok (.dpasS4U4 baseForm) := by decide

theorem test_decode_s4_s4 :
    decode ([0x83, 0x83] ++ opBytes ++ [0x06, 0x06, 0x08, 0x02]) = .ok (.dpasS4S4 baseForm) := by decide

theorem test_decode_s4_u8 :
    decode ([0x83, 0x83] ++ opBytes ++ [0x06, 0x07, 0x08, 0x02]) = .ok (.dpasS4U8 baseForm) := by decide

theorem test_decode_s4_s8 :
    decode ([0x83, 0x83] ++ opBytes ++ [0x06, 0x08, 0x08, 0x02]) = .ok (.dpasS4S8 baseForm) := by decide

theorem test_decode_u8_u2 :
    decode ([0x83, 0x83] ++ opBytes ++ [0x07, 0x03, 0x08, 0x02]) = .ok (.dpasU8U2 baseForm) := by decide

theorem test_decode_u8_s2 :
    decode ([0x83, 0x83] ++ opBytes ++ [0x07, 0x04, 0x08, 0x02]) = .ok (.dpasU8S2 baseForm) := by decide

theorem test_decode_u8_u4 :
    decode ([0x83, 0x83] ++ opBytes ++ [0x07, 0x05, 0x08, 0x02]) = .ok (.dpasU8U4 baseForm) := by decide

theorem test_decode_u8_s4 :
    decode ([0x83, 0x83] ++ opBytes ++ [0x07, 0x06, 0x08, 0x02]) = .ok (.dpasU8S4 baseForm) := by decide

theorem test_decode_u8_u8 :
    decode ([0x83, 0x83] ++ opBytes ++ [0x07, 0x07, 0x08, 0x02]) = .ok (.dpasU8U8 baseForm) := by decide

theorem test_decode_u8_s8 :
    decode ([0x83, 0x83] ++ opBytes ++ [0x07, 0x08, 0x08, 0x02]) = .ok (.dpasU8S8 baseForm) := by decide

theorem test_decode_s8_u2 :
    decode ([0x83, 0x83] ++ opBytes ++ [0x08, 0x03, 0x08, 0x02]) = .ok (.dpasS8U2 baseForm) := by decide

theorem test_decode_s8_s2 :
    decode ([0x83, 0x83] ++ opBytes ++ [0x08, 0x04, 0x08, 0x02]) = .ok (.dpasS8S2 baseForm) := by decide

theorem test_decode_s8_u4 :
    decode ([0x83, 0x83] ++ opBytes ++ [0x08, 0x05, 0x08, 0x02]) = .ok (.dpasS8U4 baseForm) := by decide

theorem test_decode_s8_s4 :
    decode ([0x83, 0x83] ++ opBytes ++ [0x08, 0x06, 0x08, 0x02]) = .ok (.dpasS8S4 baseForm) := by decide

theorem test_decode_s8_u8 :
    decode ([0x83, 0x83] ++ opBytes ++ [0x08, 0x07, 0x08, 0x02]) = .ok (.dpasS8U8 baseForm) := by decide

theorem test_decode_s8_s8 :
    decode ([0x83, 0x83] ++ opBytes ++ [0x08, 0x08, 0x08, 0x02]) = .ok (.dpasS8S8 baseForm) := by decide

theorem test_decode_bf_bf :
    decode ([0x83, 0x83] ++ opBytesF ++ [0x09, 0x09, 0x08, 0x02]) =
      .ok (.dpasBfBf { baseForm with dst := .reg 20 0 .f false, src0 := .reg 10 0 .f false }) := by decide

theorem test_decode_hf_hf :
    decode ([0x83, 0x83] ++ opBytesF ++ [0x0A, 0x0A, 0x08, 0x02]) =
      .ok (.dpasHfHf { baseForm with dst := .reg 20 0 .f false, src0 := .reg 10 0 .f false }) := by decide

theorem test_decode_generic_tf32_u8 :
    decode ([0x83, 0x83] ++ opBytes ++ [0x0C, 0x07, 0x08, 0x02]) =
      .ok (.dpas { baseTerm with w := 0x0C, a := 0x07, sd := 0x08, rc := 0x02 }) := by decide

theorem test_decode_one_bit :
    decode ([0x83, 0x83] ++ opBytes ++ [0x01, 0x08, 0x08, 0x02]) =
      .ok (.dpasOneBit { baseTerm with w := 0x01, a := 0x08, sd := 0x08, rc := 0x02 }) := by decide

theorem test_decode_tf32_tf32 :
    decode ([0x83, 0x83] ++ opBytes ++ [0x0C, 0x0C, 0x08, 0x02]) = .ok (.dpasTf32Tf32 baseForm 8) := by decide

theorem test_decode_unused_precision :
    decode ([0x83, 0x83] ++ opBytes ++ [0x00, 0x08, 0x08, 0x02]) =
      .ok (.dpasUnusedPrecision { baseTerm with w := 0x00, a := 0x08, sd := 0x08, rc := 0x02 }) := by decide

theorem test_decode_unassigned_precision :
    decode ([0x83, 0x83] ++ opBytes ++ [0x17, 0x08, 0x08, 0x02]) =
      .ok (.dpasUnassignedPrecision { baseTerm with w := 0x17, a := 0x08, sd := 0x08, rc := 0x02 }) := by decide

theorem test_decode_mixed_precision :
    decode ([0x83, 0x83] ++ opBytes ++ [0x09, 0x0A, 0x08, 0x02]) =
      .ok (.dpasMixedPrecision { baseTerm with w := 0x09, a := 0x0A, sd := 0x08, rc := 0x02 }) := by decide

theorem test_decode_depth_4 :
    decode ([0x83, 0x83] ++ opBytes ++ [0x08, 0x07, 0x04, 0x02]) =
      .ok (.dpasShallowDepth { baseTerm with w := 0x08, a := 0x07, sd := 0x04, rc := 0x02 }) := by decide

theorem test_decode_depth_16 :
    decode ([0x83, 0x83] ++ opBytes ++ [0x08, 0x07, 0x10, 0x02]) =
      .ok (.dpasOtherDepth { baseTerm with w := 0x08, a := 0x07, sd := 0x10, rc := 0x02 }) := by decide

theorem test_decode_repeat_0 :
    decode ([0x83, 0x83] ++ opBytes ++ [0x08, 0x07, 0x08, 0x00]) =
      .ok (.dpasBadRepeatCount { baseTerm with w := 0x08, a := 0x07, sd := 0x08, rc := 0x00 }) := by decide

theorem test_decode_bf_typed_dst :
    decode ([0x83, 0x83] ++ ([4, 0, 20, 0] ++ [1, 0, 10, 0] ++ [2, 0, 30, 0] ++ [1, 0, 40, 0]) ++ [0x09, 0x09, 0x08, 0x02]) =
      .ok (.dpasUnsupportedType { baseTerm with dst := .reg 20 0 .bf false, w := 0x09, a := 0x09 }) := by decide

theorem test_decode_exec_size_bit3 :
    decode ([0x83, 0x8B] ++ opBytes ++ [0x07, 0x08, 0x08, 0x02]) =
      .ok (.dpasBadExecSize { baseTerm with execSize := { sizeCode := 3, bit3 := 1, maskCode := 8 }, w := 0x07, a := 0x08, sd := 0x08, rc := 0x02 }) := by decide

/-- A `Src2` at `r40.4` with a modifier, and `Exec_size` `0x84` (`M1_NM`, 16 elements). -/
theorem test_decode_offset_and_modifier :
    decode ([0x83, 0x84] ++ [1, 0, 20, 0] ++ [0, 0, 0, 0] ++ [2, 0, 30, 0] ++ [0x12, 4, 40, 1] ++ [0x08, 0x05, 0x08, 0x01]) =
      .ok (.dpasS8U4 { execSize := { sizeCode := 4, bit3 := 0, maskCode := 8 }, dst := reg 20, src0 := .null,
                       src1 := .reg 30 0 .ud false, src2 := .reg 296 4 .ud true, rc := 1 }) := by decide

theorem test_decode_other_opcodes :
    decode ([0x82, 0x83] ++ opBytes ++ [7, 8, 8, 2]) = .error .unknownOpcode ∧
    decode ([0x84, 0x83] ++ opBytes ++ [7, 8, 8, 2]) = .error .unknownOpcode ∧
    decode [] = .error .truncated ∧
    decode ([0x83, 0x83] ++ opBytes ++ [7, 8, 8]) = .error .truncated ∧
    decode ([0x83, 0x83] ++ opBytes ++ [7, 8, 8, 2, 0]) = .error .trailingBytes := by decide

/-- Operand bytes that no encoder writes are terms too (R77): the type codes 7 and 0 are `DF` (log 13). -/
theorem test_decode_any_operand_bytes :
    decode ([0x83, 0x83] ++ ([7, 0, 20, 0] ++ [0x10, 0, 0, 0] ++ [0x22, 0, 30, 0] ++ [1, 0, 40, 0]) ++ [7, 8, 8, 2]) =
      .ok (.dpasUnsupportedType { baseTerm with
        dst := .reg 20 0 .df false, src0 := .reg 0 0 .df true, src1 := .reg 30 0 .ud true }) := by decide

/-- A DW offset of `GRF_DW` or more is carried into a later GRF (log 23). -/
theorem test_offset_carried :
    operandGrf (params .xehp) (.reg 20 8 .d false) = 21 ∧ operandGrf (params .pvc) (.reg 20 8 .d false) = 20 ∧
    alignOk (params .xehp) (.int .u8 .s8) { baseTerm with dst := .reg 20 8 .d false } = true ∧
    alignOk (params .pvc) (.int .u8 .s8) { baseTerm with dst := .reg 20 8 .d false } = false := by decide

/-- S2: `DPAS.u4.s8.8.8` (R73, R74). -/
theorem test_text : dpasText ({ baseForm with rc := 8 }.admitted (.int .u4 .s8)) = some "DPAS.u4.s8.8.8" := by decide

/-- The first instruction after reset is the word the host places (log 1). -/
theorem test_reset_runs_the_placed_word :
    (match step (State.reset.withFetchWord 8 0x83) with | .refused r => some r | _ => none) = some .badExecSize := by decide

/-! Well-formedness as syntax: an ill-formed term for each check. -/

theorem test_wf_accepts : (Instr.dpasU8S8 baseForm).wf = true ∧ (Instr.dpasBfBf floatForm).wf = true := by decide

theorem test_wf_refuses_operands_without_an_encoding :
    (Instr.dpasU8S8 { baseForm with dst := reg 65536 }).wf = false ∧
    (Instr.dpasU8S8 { baseForm with src0 := reg 65536 }).wf = false ∧
    (Instr.dpasU8S8 { baseForm with src1 := reg 65536 }).wf = false ∧
    (Instr.dpasU8S8 { baseForm with src2 := .reg 40 256 .d false }).wf = false := by decide

theorem test_wf_refuses_terms_of_another_row :
    (Instr.dpas baseTerm).wf = false ∧
    (Instr.dpasU8S8 { baseForm with rc := 0 }).wf = false ∧
    (Instr.dpasU8S8 { baseForm with execSize := { sizeCode := 2, bit3 := 0, maskCode := 8 } }).wf = false ∧
    (Instr.dpasU8S8 { baseForm with execSize := { sizeCode := 3, bit3 := 1, maskCode := 8 } }).wf = false ∧
    (Instr.dpasU8S8 { baseForm with dst := .reg 20 0 .bf false }).wf = false ∧
    (Instr.dpasOneBit baseTerm).wf = false ∧
    (Instr.dpasTf32Tf32 { baseForm with execSize := { sizeCode := 0, bit3 := 0, maskCode := 8 } } 8).wf = false ∧
    (Instr.dpasUnusedPrecision baseTerm).wf = false ∧
    (Instr.dpasUnassignedPrecision baseTerm).wf = false ∧
    (Instr.dpasMixedPrecision baseTerm).wf = false ∧
    (Instr.dpasShallowDepth baseTerm).wf = false ∧
    (Instr.dpasOtherDepth baseTerm).wf = false ∧
    (Instr.dpasBadRepeatCount baseTerm).wf = false ∧
    (Instr.dpasUnsupportedType baseTerm).wf = false ∧
    (Instr.dpasBadExecSize baseTerm).wf = false := by decide

/-! Legality: the checks of R117, each refused beside the nearest accepted form (section 2.7). -/

theorem test_legal_accepts :
    verdict .xehp baseTerm = none ∧
    verdict .xehp { baseTerm with execSize := { sizeCode := 3, bit3 := 0, maskCode := 15 } } = none ∧
    verdict .xehp { baseTerm with rc := 8 } = none ∧
    verdict .xehp { baseTerm with src0 := .null } = none ∧
    verdict .xehp { baseTerm with dst := .reg 20 0 .ud false } = none ∧
    verdict .xehp { baseTerm with src0 := reg 30 } = none ∧
    verdict .xehp { baseTerm with src1 := reg 40 } = none ∧
    verdict .xehp { baseTerm with dst := reg 10 } = none ∧
    verdict .pvc { baseTerm with execSize := { sizeCode := 4, bit3 := 0, maskCode := 8 } } = none := by decide

theorem test_check_exec_size :
    verdict .xehp { baseTerm with execSize := { sizeCode := 4, bit3 := 0, maskCode := 8 } } = some .badExecSize ∧
    verdict .pvc baseTerm = some .badExecSize ∧
    verdict .xehp { baseTerm with execSize := { sizeCode := 3, bit3 := 1, maskCode := 8 } } = some .badExecSize ∧
    verdict .xehp { baseTerm with execSize := { sizeCode := 2, bit3 := 0, maskCode := 8 } } = some .badExecSize ∧
    verdict .xehp { baseTerm with execSize := { sizeCode := 5, bit3 := 0, maskCode := 8 } } = some .badExecSize := by decide

theorem test_check_precision_codes :
    verdict .xehp { baseTerm with w := 0 } = some .badPrecision ∧
    verdict .xehp { baseTerm with w := 0x0B } = some .badPrecision ∧
    verdict .xehp { baseTerm with a := 0x0D } = some .badPrecision ∧
    verdict .xehp { baseTerm with a := 0x0F } = some .badPrecision ∧
    verdict .xehp { baseTerm with w := 0x17 } = some .badPrecision := by decide

theorem test_check_unsupported_precision :
    verdict .xehp { baseTerm with w := 1 } = some .unsupportedPrecision ∧
    verdict .xehp { baseTerm with a := 2 } = some .unsupportedPrecision ∧
    verdict .xehp { baseTerm with w := 0x0C, a := 0x0C } = some .unsupportedPrecision ∧
    verdict .xehp { baseTerm with w := 0x0C } = some .unsupportedPrecision := by decide

theorem test_check_precision_pair :
    verdict .xehp { baseTerm with w := 9, a := 0x0A } = some .precisionMismatch ∧
    verdict .xehp { baseTerm with w := 7, a := 9 } = some .precisionMismatch := by decide

theorem test_check_depth :
    verdict .xehp { baseTerm with sd := 0 } = some .badDepth ∧ verdict .xehp { baseTerm with sd := 3 } = some .badDepth ∧
    verdict .xehp { baseTerm with sd := 16 } = some .badDepth ∧
    verdict .xehp { baseTerm with sd := 1 } = some .unsupportedDepth ∧
    verdict .xehp { baseTerm with sd := 2 } = some .unsupportedDepth ∧
    verdict .xehp { baseTerm with sd := 4 } = some .unsupportedDepth := by decide

theorem test_check_repeat_count :
    verdict .xehp { baseTerm with rc := 0 } = some .badRepeatCount ∧
    verdict .xehp { baseTerm with rc := 9 } = some .badRepeatCount := by decide

theorem test_check_null_operands :
    verdict .xehp { baseTerm with dst := .null } = some .nullOperand ∧
    verdict .xehp { baseTerm with src1 := .null } = some .nullOperand ∧
    verdict .xehp { baseTerm with src2 := .null } = some .nullOperand := by decide

theorem test_check_modifiers :
    verdict .xehp { baseTerm with src1 := .reg 30 0 .ud true } = some .sourceModifier ∧
    verdict .xehp { baseTerm with src0 := .reg 10 0 .d true } = some .sourceModifier ∧
    verdict .xehp { baseTerm with src2 := .reg 40 0 .d true } = some .sourceModifier := by decide

theorem test_check_unsupported_types :
    verdict .xehp { baseTerm with dst := .reg 20 0 .bf false } = some .unsupportedType ∧
    verdict .xehp { baseTerm with src0 := .reg 10 0 .hf false } = some .unsupportedType ∧
    verdict .xehp { baseTerm with src1 := .reg 30 0 .df false } = some .unsupportedType ∧
    verdict .xehp { baseTerm with src2 := .reg 40 0 .df false } = some .unsupportedType := by decide

theorem test_check_type_combination :
    verdict .xehp { baseTerm with dst := .reg 20 0 .f false } = some .typeCombination ∧
    verdict .xehp { baseTerm with w := 9, a := 9 } = some .typeCombination ∧
    verdict .xehp { baseTerm with src1 := .reg 30 0 .f false } = some .typeCombination ∧
    verdict .xehp (floatForm.admitted .bf) = none := by decide

theorem test_check_alignment :
    verdict .xehp { baseTerm with src2 := .reg 40 4 .d false } = some .misaligned ∧
    verdict .xehp { baseTerm with src2 := .reg 40 4 .d false, a := 5 } = none ∧
    verdict .xehp { baseTerm with src2 := .reg 40 2 .d false, a := 3 } = none ∧
    verdict .xehp { baseTerm with src2 := .reg 40 2 .d false, w := 5, a := 3 } = some .misaligned ∧
    verdict .xehp { baseTerm with dst := .reg 20 1 .d false } = some .misaligned := by decide

theorem test_check_range :
    verdict .xehp { baseTerm with dst := reg 127 } = some .outOfRange ∧ verdict .xehp { baseTerm with dst := reg 126 } = none ∧
    verdict .xehp { baseTerm with src1 := reg 121 } = some .outOfRange ∧
    verdict .xehp { baseTerm with src1 := reg 120 } = none ∧
    verdict .xehp { baseTerm with src2 := reg 127 } = some .outOfRange ∧
    verdict .xehp { baseTerm with src2 := reg 126 } = none := by decide

theorem test_check_overlap :
    verdict .xehp { baseTerm with dst := reg 30 } = some .overlap ∧ verdict .xehp { baseTerm with dst := reg 37 } = some .overlap ∧
    verdict .xehp { baseTerm with dst := reg 29 } = some .overlap ∧ verdict .xehp { baseTerm with dst := reg 38 } = none ∧
    verdict .xehp { baseTerm with dst := reg 28 } = none ∧ verdict .xehp { baseTerm with dst := reg 40 } = some .overlap ∧
    verdict .xehp { baseTerm with dst := reg 41 } = some .overlap ∧ verdict .xehp { baseTerm with dst := reg 39 } = some .overlap ∧
    verdict .xehp { baseTerm with dst := reg 42 } = none ∧ verdict .xehp { baseTerm with dst := reg 11 } = some .overlap := by
  decide

theorem test_check_platform :
    (match judge { params .xehp with platformRefuses := [baseTerm] } baseTerm with
      | .error r => some r
      | .ok _ => none) = some .platformRestriction := by decide

/-! Elements and their values (section 2.1). -/

theorem test_elements :
    (List.range 4).map (elem 8 0x0A030201) = [1, 2, 3, 10] ∧
    (List.range 8).map (elem 4 0x89ABCDEF) = [15, 14, 13, 12, 11, 10, 9, 8] ∧
    (List.range 4).map (elem 2 0x0000001B) = [3, 2, 1, 0] ∧
    (List.range 2).map (elem 16 0x40003F80) = [0x3F80, 0x4000] := by decide

theorem test_element_values :
    [0x01, 0x7F, 0xFF, 0x80].map (intVal .s8) = [1, 127, -1, -128] ∧
    [15, 14, 8, 7].map (intVal .s4) = [-1, -2, -8, 7] ∧
    [0, 1, 2, 3].map (intVal .s2) = [0, 1, -2, -1] ∧
    [0xFF, 0x80].map (intVal .u8) = [255, 128] := by decide

/-- A stage of section 2.4: `u2` by `s2`, eight elements of 3 and -2. -/
theorem test_stage_u2_s2 :
    intStage .u2 .s2 0 [3, 3, 3, 3, 3, 3, 3, 3] [2, 2, 2, 2, 2, 2, 2, 2] = 0xFFFFFFD0 := by decide

/-! Whole instructions (sections 2.3 and 2.6): each reads one or two dwords of `Dst` after one instruction. -/

/-- The registers of V1 before the instruction, in the channels the test reads. -/
def beforeV1 : State :=
  stateOf .xehp (dws 87 [0x00000010] ++
    dws 95 [0x7FFFFFFF] ++
    dws 247 [0x845F3A15] ++
    dws 255 [0x18F3CEA9] ++
    dws 263 [0xAC87623D] ++
    dws 271 [0x401BF6D1] ++
    dws 279 [0xD4AF8A65] ++
    dws 287 [0x68431EF9] ++
    dws 295 [0xFCD7B28D] ++
    dws 303 [0x906B4621] ++
    dws 320 [0x9F928578, 0xD3C6B9AC, 0x07FAEDE0, 0x3B2E2114, 0x6F625548, 0xA396897C, 0xD7CABDB0, 0x0BFEF1E4] ++
    dws 328 [0xA6998C7F, 0xDACDC0B3, 0x0E01F4E7, 0x4235281B, 0x76695C4F, 0xAA9D9083, 0xDED1C4B7, 0x1205F8EB])

/-- V1. -/
theorem test_v1 :
    gives (.dpasU8S8 { execSize := { sizeCode := 3, bit3 := 0, maskCode := 8 }, dst := .reg 20 0 .d false, src0 := .reg 10 0 .d false, src1 := .reg 30 0 .ud false, src2 := .reg 40 0 .d false, rc := 2 })
      beforeV1 175 0x7FFEF64F = true := by decide +kernel

/-- The registers of V2 before the instruction, in the channels the test reads. -/
def beforeV2 : State :=
  stateOf .xehp (dws 247 [0x1C72D83E] ++
    dws 255 [0x94FA50B6] ++
    dws 263 [0x1C72D83E] ++
    dws 271 [0x94FA50B6] ++
    dws 320 [0x513417FA, 0xC5A88B6E, 0x391CFFE2, 0xAD907356, 0x2104E7CA, 0x95785B3E, 0x09ECCFB2, 0x7D604326])

/-- V2. -/
theorem test_v2 :
    gives (.dpasU4S8 { execSize := { sizeCode := 3, bit3 := 0, maskCode := 8 }, dst := .reg 20 0 .d false, src0 := .null, src1 := .reg 30 0 .d false, src2 := .reg 40 0 .d false, rc := 1 })
      beforeV2 167 0x00001310 = true := by decide +kernel

/-- The registers of V3 before the instruction, in the channels the test reads. -/
def beforeV3 : State :=
  stateOf .xehp (dws 81 [0x00000001] ++
    dws 241 [0x39393939] ++
    dws 249 [0x39393939] ++
    dws 257 [0x39393939] ++
    dws 265 [0x39393939] ++
    dws 324 [0xB1B1B1B1, 0xB1B1B1B1, 0xB1B1B1B1, 0xB1B1B1B1])

/-- V3. -/
theorem test_v3 :
    gives (.dpasS2U2 { execSize := { sizeCode := 3, bit3 := 0, maskCode := 8 }, dst := .reg 20 0 .d false, src0 := .reg 10 0 .d false, src1 := .reg 30 0 .d false, src2 := .reg 40 4 .d false, rc := 1 })
      beforeV3 161 0xFFFFFFE1 = true := by decide +kernel

/-- The registers of V4 before the instruction, in the channels the test reads. -/
def beforeV4 : State :=
  stateOf .xehp (dws 167 [0xFFFFFFF7] ++
    dws 175 [0xFFFFFFF7] ++
    dws 247 [0x8B30D57A] ++
    dws 255 [0xF79C41E6] ++
    dws 263 [0x6308AD52] ++
    dws 271 [0xCF7419BE] ++
    dws 279 [0x3BE0852A] ++
    dws 287 [0xA74CF196] ++
    dws 295 [0x13B85D02] ++
    dws 303 [0x7F24C96E] ++
    dws 324 [0x6F81A3C5, 0xE7092B4D, 0x6F81A3C5, 0xE7092B4D, 0x7092B4D6, 0xF81A3C5E, 0x7092B4D6, 0xF81A3C5E])

/-- V4. -/
theorem test_v4 :
    gives (.dpasS8U4 { execSize := { sizeCode := 3, bit3 := 0, maskCode := 8 }, dst := .reg 20 0 .d false, src0 := .reg 20 0 .d false, src1 := .reg 30 0 .d false, src2 := .reg 40 4 .ud false, rc := 2 })
      beforeV4 175 0x00000547 = true := by decide +kernel

/-- The registers of V5 before the instruction, in the channels the test reads. -/
def beforeV5 : State :=
  stateOf .xehp (dws 87 [0x00000000] ++
    dws 247 [0xC9630DA7] ++
    dws 255 [0x41EB852F] ++
    dws 263 [0xC9630DA7] ++
    dws 271 [0x41EB852F] ++
    dws 279 [0xC9630DA7] ++
    dws 287 [0x41EB852F] ++
    dws 295 [0xC9630DA7] ++
    dws 303 [0x41EB852F] ++
    dws 320 [0xB61C72D8, 0x3E94FA50, 0xB61C72D8, 0x3E94FA50, 0xB61C72D8, 0x3E94FA50, 0xB61C72D8, 0x3E94FA50])

/-- V5. -/
theorem test_v5 :
    gives (.dpasS4S4 { execSize := { sizeCode := 3, bit3 := 0, maskCode := 8 }, dst := .reg 20 0 .d false, src0 := .reg 10 0 .d false, src1 := .reg 30 0 .d false, src2 := .reg 40 0 .d false, rc := 1 })
      beforeV5 167 0xFFFFFEC0 = true := by decide +kernel

/-- The registers of V6 before the instruction, in the channels the test reads. -/
def beforeV6 : State :=
  stateOf .pvc (dws 175 [0x0000000F] ++
    dws 191 [0x000003F7] ++
    dws 495 [0xDDC6AF98] ++
    dws 511 [0x39220BF4] ++
    dws 527 [0x957E6750] ++
    dws 543 [0xF1DAC3AC] ++
    dws 559 [0x4D361F08] ++
    dws 575 [0xA9927B64] ++
    dws 591 [0x05EED7C0] ++
    dws 607 [0x614A331C] ++
    dws 640 [0x3C291603, 0x8875624F, 0xD4C1AE9B, 0x200DFAE7, 0x6C594633, 0xB8A5927F, 0x04F1DECB, 0x503D2A17] ++
    dws 648 [0xA18E7B68, 0xEDDAC7B4, 0x39261300, 0x85725F4C, 0xD1BEAB98, 0x1D0AF7E4, 0x69564330, 0xB5A28F7C])

/-- V6. -/
theorem test_v6 :
    gives (.dpasS8S8 { execSize := { sizeCode := 4, bit3 := 0, maskCode := 8 }, dst := .reg 20 0 .d false, src0 := .reg 10 0 .d false, src1 := .reg 30 0 .d false, src2 := .reg 40 0 .d false, rc := 2 })
      beforeV6 351 0xFFFEF867 = true := by decide +kernel

/-- The registers of V7 before the instruction, in the channels the test reads. -/
def beforeV7 : State :=
  stateOf .xehp (dws 241 [0x93939393] ++
    dws 249 [0x93939393] ++
    dws 320 [0x160F0801, 0x322B241D, 0x4E474039, 0x6A635C55, 0x867F7871, 0xA29B948D, 0xBEB7B0A9, 0xDAD3CCC5])

/-- V7. -/
theorem test_v7 :
    gives (.dpasU2U8 { execSize := { sizeCode := 3, bit3 := 0, maskCode := 8 }, dst := .reg 20 0 .d false, src0 := .null, src1 := .reg 30 0 .d false, src2 := .reg 40 0 .d false, rc := 1 })
      beforeV7 161 0x00001450 = true := by decide +kernel

/-- V0. -/
theorem test_v0 :
    gives (.dpasU8S8 rowForm) (stateOf .xehp (fill 240 64 0x01010101 ++ fill 320 8 0x02020202)) 160 0x40 = true := by
  decide +kernel

/-- A constant-fill case of V8, read in one channel: every dword of `Src1`, `Src2` and `Src0` is the one given. -/
def constantFill (i : Form → Instr) (b a c w : Nat) : Bool :=
  gives (i { baseForm with rc := 1 })
    (stateOf .xehp (fill 80 8 c ++ fill 240 64 b ++ fill 320 8 a)) 167 w

theorem test_v8_s8_s8 :
    constantFill .dpasS8S8 0x80808080 0x80808080 0x00000000 0x00080000 = true := by decide +kernel

theorem test_v8_u8_u8 :
    constantFill .dpasU8U8 0xFFFFFFFF 0xFFFFFFFF 0x00000000 0x001FC020 = true ∧
    constantFill .dpasU8U8 0x01010101 0x00000000 0x12345678 0x12345678 = true ∧
    constantFill .dpasU8U8 0x00000000 0x00000000 0xFFFFFFFF 0xFFFFFFFF = true ∧
    constantFill .dpasU8U8 0x01010101 0x01010101 0xFFFFFFE0 0x00000000 = true ∧
    constantFill .dpasU8U8 0x01010101 0x01010101 0x7FFFFFE0 0x80000000 = true := by decide +kernel

theorem test_v8_u8_s8 :
    constantFill .dpasU8S8 0xFFFFFFFF 0x80808080 0x00000000 0xFFF01000 = true := by decide +kernel

theorem test_v8_s8_u8 :
    constantFill .dpasS8U8 0xFFFFFFFF 0x80808080 0x00000000 0xFFFFF000 = true ∧
    constantFill .dpasS8U8 0xFFFFFFFF 0x01010101 0x0000001F 0xFFFFFFFF = true := by decide +kernel

theorem test_v8_s4_s4 :
    constantFill .dpasS4S4 0x88888888 0x88888888 0x00000000 0x00001000 = true := by decide +kernel

theorem test_v8_u4_u4 :
    constantFill .dpasU4U4 0xFFFFFFFF 0xFFFFFFFF 0x00000000 0x00003840 = true := by decide +kernel

theorem test_v8_s2_s2 :
    constantFill .dpasS2S2 0xAAAAAAAA 0xAAAAAAAA 0x00000000 0x00000100 = true ∧
    constantFill .dpasS2S2 0xAAAAAAAA 0x55555555 0x00000000 0xFFFFFF80 = true := by decide +kernel

theorem test_v8_u2_u2 :
    constantFill .dpasU2U2 0xFFFFFFFF 0xFFFFFFFF 0x00000000 0x00000240 = true := by decide +kernel

theorem test_v8_s4_u2 :
    constantFill .dpasS4U2 0x88888888 0xFFFFFFFF 0x00000000 0xFFFFFA00 = true := by decide +kernel

theorem test_v8_u2_s4 :
    constantFill .dpasU2S4 0xFFFFFFFF 0x88888888 0x00000000 0xFFFFFA00 = true := by decide +kernel

/-- V11: under the premise on `ChEn`, `M1` writes channel 3 and leaves channel 4 as it was; `M1_NM` writes it. -/
theorem test_v11_disabled_channels :
    gives (.dpasU8S8 { rowForm with execSize := { sizeCode := 3, bit3 := 0, maskCode := 0 } })
      (stateOf .xehp (fill 160 8 0xAAAAAAAA ++ fill 240 64 0x01010101 ++ fill 320 8 0x02020202)) 163 0x40 = true ∧
    gives (.dpasU8S8 { rowForm with execSize := { sizeCode := 3, bit3 := 0, maskCode := 0 } })
      (stateOf .xehp (fill 160 8 0xAAAAAAAA ++ fill 240 64 0x01010101 ++ fill 320 8 0x02020202)) 164 0xAAAAAAAA = true ∧
    gives (.dpasU8S8 { rowForm with execSize := { sizeCode := 3, bit3 := 0, maskCode := 8 } })
      (stateOf .xehp (fill 160 8 0xAAAAAAAA ++ fill 240 64 0x01010101 ++ fill 320 8 0x02020202)) 164 0x40 = true := by
  decide +kernel

/-- The outcome of one instruction is the fault `UnwrittenRegister`. -/
def faults (i : Instr) (s : State) : Bool :=
  match exec i s with
  | .fault .unwrittenRegister => true
  | _ => false

/-- Section 2.8: `r11.7`, `r37.0` or `r41.7` unwritten faults; `r42.0` or `r20.0` unwritten does not; nor `r11.7` with a null `Src0`;
a mask that disables channel 7 makes no difference. -/
theorem test_unwritten_registers :
    faults (.dpasU8S8 baseForm) (stateOf .xehp [(95, .unwritten)]) = true ∧
    faults (.dpasU8S8 baseForm) (stateOf .xehp [(296, .unwritten)]) = true ∧
    faults (.dpasU8S8 baseForm) (stateOf .xehp [(335, .unwritten)]) = true ∧
    faults (.dpasU8S8 baseForm) (stateOf .xehp [(336, .unwritten)]) = false ∧
    faults (.dpasU8S8 baseForm) (stateOf .xehp [(160, .unwritten)]) = false ∧
    faults (.dpasU8S8 { baseForm with src0 := .null }) (stateOf .xehp [(95, .unwritten)]) = false ∧
    faults (.dpasU8S8 { baseForm with execSize := { sizeCode := 3, bit3 := 0, maskCode := 0 } })
      (stateOf .xehp [(95, .unwritten)]) = true := by decide +kernel

/-! Steps (part 3). -/

/-- The state of P1 before its one step. -/
def beforeP1 : State :=
  { stateOf .xehp (fill 240 64 0x01010101 ++ fill 320 8 0x02020202) with prog := [encode (.dpasU8S8 rowForm)] }

/-- P1 ends after its one instruction. -/
theorem test_p1 :
    (match step beforeP1 with
      | .next u => some (u.pc, u.outcome, RegFile.read u.rf 160)
      | _ => none) = some (1, .ended, .val 0x40) := by decide +kernel

/-- P4, the second step: depth 4 is refused, and the state is left as it was but for the outcome. -/
theorem test_p4 :
    ({ beforeP1 with prog := [encode (.dpasShallowDepth { baseTerm with w := 8, a := 7, sd := 4 })] }).advance =
      { beforeP1 with
        prog := [encode (.dpasShallowDepth { baseTerm with w := 8, a := 7, sd := 4 })]
        outcome := .refused .unsupportedDepth } := by decide +kernel

/-! The float formats (R161 to R163), in units of `2^-149`. -/

theorem test_f_values :
    fUnits 0x3F800000 = 2 ^ 149 ∧ 2 * fUnits 0x40F00000 = 15 * 2 ^ 149 ∧ fUnits 0x41800000 = 16 * 2 ^ 149 := by decide

theorem test_bf_values :
    bfFormat.units 0x3F80 = 2 ^ 149 ∧ bfFormat.units 0x4040 = 3 * 2 ^ 149 ∧ 2 * bfFormat.units 0x3F00 = 2 ^ 149 ∧
    bfFormat.units 0xBF80 = -(2 ^ 149) ∧ bfFormat.units 0x8000 = 0 ∧ bfFormat.ordinary 0x7F80 = false := by decide

theorem test_hf_values :
    hfFormat.units 0x3C00 = 2 ^ 149 ∧ hfFormat.units 0x4200 = 3 * 2 ^ 149 ∧ 2 * hfFormat.units 0x3800 = 2 ^ 149 ∧
    hfFormat.units 0xBC00 = -(2 ^ 149) ∧ hfFormat.units 0x0001 * 2 ^ 24 = 2 ^ 149 ∧ hfFormat.ordinary 0x7C00 = false := by
  decide

/-! Witnesses: for each statement with hypotheses, a concrete state and operands that meet all of them. -/

/-- A state in which every dword holds 0. -/
def zeros (q : Platform) : State :=
  stateOf q []

/-- An admitted row, its verdict and its dwords known, answers the state with the new register file and `pc` one more. -/
theorem exec_row {k : Kind} {f : Form} {p : Params} {rf new : RegFile} (s : State) (hp : s.params = p) (hs : s.rf = rf)
    (hj : judge p (f.admitted k) = .ok k) (hw : sourcesWritten p k (f.admitted k) rf = true)
    (hr : RegFile.writeAll rf (newCells p k (f.admitted k) rf) = new) :
    exec (kindRow k f) s = .next { s with rf := new, pc := s.pc + 1 } := by
  subst hp hs hr
  rw [exec_kindRow, runDpas_of_ok hj hw, State.retire]

/-- The row `DPAS.u8.s8` with null `Src0` and `RC = 1` on zeros. -/
theorem row_on_zeros (s : State) (hp : s.params = params .xehp) (hs : s.rf = []) :
    exec (.dpasU8S8 rowForm) s = .next { s with rf := [], pc := s.pc + 1 } :=
  exec_row (k := .int .u8 .s8) (f := rowForm) s hp hs (by decide) (by decide +kernel) (by decide +kernel)

theorem witness_DecodeOfEncodeIsTheInstruction : (Instr.dpasU8S8 baseForm).wf = true := by decide

theorem witness_OtherOpcodesAreUnknown :
    (0x82 : Byte) ≠ 0x83 ∧ decodeTerm operandLayout (0x83 :: 0x83 :: (opBytes ++ [7, 8, 8, 2])) = .ok baseTerm := by decide

theorem witness_DecoderCutsTheFieldsInOrder :
    operandLayout.rawBytes = 4 ∧ operandLayout.vecBytes = 4 ∧
    ([1, 0, 20, 0] : List Byte).length = operandLayout.rawBytes ∧ operandLayout.resolveRaw [1, 0, 20, 0] = reg 20 ∧
    operandLayout.resolveRaw [0, 0, 0, 0] = .null ∧ operandLayout.resolveRaw [2, 0, 30, 0] = .reg 30 0 .ud false ∧
    operandLayout.resolveVec [1, 4, 40, 0] = .reg 40 4 .d false := by decide

theorem witness_DecoderAnswersEverySlotOfItsLength :
    (0x83 :: 0x83 :: (opBytes ++ [7, 8, 8, 2])).length = instrBytes operandLayout := by decide

theorem witness_CompletingSlotsAreEncodings :
    decode (encode (.dpasU8S8 rowForm)) = .ok (.dpasU8S8 rowForm) ∧
    exec (.dpasU8S8 rowForm) (zeros .xehp) = .next { zeros .xehp with rf := [], pc := 1 } :=
  ⟨by decide, row_on_zeros _ rfl rfl⟩

theorem witness_EveryTermHasOneRow : baseTerm.toForm.encodable = true ∧ (Instr.dpasU8S8 baseForm).wf = true := by decide

/-- The program of P1 on zeros. -/
def oneSlot : State :=
  { zeros .xehp with prog := [encode (.dpasU8S8 rowForm)] }

theorem witness_StepRunsTheDecodedInstruction :
    oneSlot.outcome = .running ∧ oneSlot.prog[oneSlot.pc]? = some (encode (.dpasU8S8 rowForm)) ∧
    decode (encode (.dpasU8S8 rowForm)) = .ok (.dpasU8S8 rowForm) := by decide

theorem witness_StepRefusesUnknownOpcodes :
    ({ zeros .xehp with prog := [[0x82, 0]] }).outcome = .running ∧
    ({ zeros .xehp with prog := [[0x82, 0]] }).prog[0]? = some [0x82, 0] ∧ (0x82 : Byte) ≠ 0x83 := by decide

/-- The step of `oneSlot`. -/
theorem step_oneSlot : step oneSlot = .next { oneSlot with pc := 1, outcome := .ended } := by
  have hf : oneSlot.fetch = .instr (.dpasU8S8 rowForm) := by decide
  show runStep oneSlot = _
  rw [runStep, hf]
  show settleOutcome (exec (.dpasU8S8 rowForm) oneSlot) = _
  rw [row_on_zeros oneSlot rfl rfl]
  rfl

theorem witness_RunAdvancesAndEnds :
    oneSlot.pc < oneSlot.prog.length ∧ step oneSlot = .next { oneSlot with pc := 1, outcome := .ended } :=
  ⟨by decide, step_oneSlot⟩

/-- `oneSlot` with `r37.0`, in the last GRF of `Src1`, unwritten. -/
def unwrittenSlot : State :=
  { oneSlot with rf := [(296, .unwritten)] }

/-- The step of `unwrittenSlot`. -/
theorem step_unwrittenSlot : step unwrittenSlot = .fault .unwrittenRegister := by
  have hf : unwrittenSlot.fetch = .instr (.dpasU8S8 rowForm) := by decide
  have hj : judge unwrittenSlot.params (rowForm.admitted (.int .u8 .s8)) = .ok (.int .u8 .s8) := by decide
  have hw : sourcesWritten unwrittenSlot.params (.int .u8 .s8) (rowForm.admitted (.int .u8 .s8)) unwrittenSlot.rf = false := by
    decide +kernel
  show runStep unwrittenSlot = _
  rw [runStep, hf]
  show settleOutcome (runDpas (rowForm.admitted (.int .u8 .s8)) unwrittenSlot) = _
  simp [runDpas, hj, hw, settleOutcome]

theorem witness_StoppedRunsStayStopped :
    (∃ s r, step s = .refused r ∧ s.outcome = .running) ∧ (∃ s r, step s = .fault r ∧ s.outcome = .running) ∧
    (∃ s : State, s.outcome = .ended) :=
  ⟨⟨State.reset.withFetchWord 8 0x83, .badExecSize, rfl, rfl⟩, ⟨_, _, step_unwrittenSlot, rfl⟩,
    ⟨{ zeros .xehp with outcome := .ended }, rfl⟩⟩

theorem witness_ProgramAndParametersAreFixed : ∃ s t, step s = .next t := ⟨_, _, step_oneSlot⟩

theorem witness_StepKeepsTheInvariant : oneSlot.Inv ∧ ∃ t, step oneSlot = .next t := by
  refine ⟨⟨by decide, by decide, by decide, by decide⟩, _, step_oneSlot⟩

theorem witness_OpsPerChannelOfEveryKind :
    intPrecBits .u8 = 8 ∧ (intPrecBits .u2 = 2 ∧ intPrecBits .s4 = 4) := by decide

theorem witness_KindIsAFunctionOfTwoBytes :
    dpasKind { baseTerm with w := 9 } = none ∧ dpasKind baseTerm = some (.int .u8 .s8) := by decide

theorem witness_ElementsMakeUpTheDword : 2 ∈ [2, 4, 8, 16] ∧ 16 ∈ [2, 4, 8, 16] := by decide

theorem witness_ElementValuesFillTheirRange :
    (0x80 < 2 ^ intPrecBits .s8 ∧ intPrecSigned .s8 = true) ∧ (3 < 2 ^ intPrecBits .u2 ∧ intPrecSigned .u2 = false) := by
  decide

theorem witness_RowSumsAreSmall : kindOps (.int .u4 .u4) = 8 := by decide

/-- Legality of a concrete term is decided by evaluation. -/
theorem legal_of_judge_parts {p : Params} {k : Kind} {t : Dpas} (h1 : LegalBytes p k t) (h2 : LegalOperands k t)
    (h3 : LegalAlignment p k t) (h4 : LegalRange p k t) (h5 : LegalOverlap p k t) (h6 : t ∉ p.platformRefuses) :
    Legal p k t :=
  ⟨h1, h2, h3, h4, h5, h6⟩

/-- Nothing is `unwritten` where every dword holds 0. -/
theorem sourcesHeld_zeros (p : Params) (k : Kind) (t : Dpas) : SourcesHeld p k t [] :=
  ⟨.inr fun _ _ _ _ => by simp [RegFile.unlisted], fun _ _ _ _ => by simp [RegFile.unlisted],
    fun _ _ => by simp [RegFile.unlisted]⟩

/-- On both platforms the base form is legal in every one of the 36 integer rows. -/
theorem witness_IntegerRowsComputeTheMatrixForm (w a : IntPrec) :
    (Legal (params .xehp) (.int w a) (baseForm.admitted (.int w a)) ∧
      SourcesHeld (params .xehp) (.int w a) (baseForm.admitted (.int w a)) (zeros .xehp).rf) ∧
    (Legal (params .pvc) (.int w a)
        ({ baseForm with execSize := { sizeCode := 4, bit3 := 0, maskCode := 0 } }.admitted (.int w a)) ∧
      SourcesHeld (params .pvc) (.int w a)
        ({ baseForm with execSize := { sizeCode := 4, bit3 := 0, maskCode := 0 } }.admitted (.int w a)) (zeros .pvc).rf) := by
  refine ⟨⟨?_, sourcesHeld_zeros _ _ _⟩, ?_, sourcesHeld_zeros _ _ _⟩ <;>
    · unfold Legal LegalBytes LegalOperands LegalAlignment LegalRange LegalOverlap
      cases w <;> cases a <;> decide

/-- The row `DPAS.u8.s8` of the base form on zeros. -/
theorem base_on_zeros : exec (.dpasU8S8 baseForm) (zeros .xehp) = .next { zeros .xehp with pc := 1 } :=
  exec_row (k := .int .u8 .s8) (f := baseForm) (zeros .xehp) rfl rfl (by decide) (by decide +kernel) (by decide +kernel)

/-- The same with `Dst` of type UD. -/
theorem base_ud_on_zeros :
    exec (.dpasU8S8 { baseForm with dst := .reg 20 0 .ud false }) (zeros .xehp) = .next { zeros .xehp with pc := 1 } :=
  exec_row (k := .int .u8 .s8) (f := { baseForm with dst := .reg 20 0 .ud false }) (zeros .xehp) rfl rfl (by decide)
    (by decide +kernel) (by decide +kernel)

/-- Row 1, channel 7 is the last dword of `Dst`; both clauses, `Dst` of type D and of type UD. -/
theorem witness_IntegerResultsInRangeAreExact :
    (1 < baseForm.rc.toNat ∧ 7 < grfDw (zeros .xehp).params.platform ∧
      channelEnabled (zeros .xehp).params baseForm.execSize.maskCode 7 = true ∧
      RegFile.read ({ zeros .xehp with pc := 1 } : State).rf
        (flatIndex (zeros .xehp).params (operandGrf (zeros .xehp).params baseForm.dst + 1) 7) = .val 0) ∧
    matC (params .xehp) (baseForm.admitted (.int .u8 .s8)) [] 1 7 = 0 ∧
    baseForm.src0.hasType [.d] = true ∧ baseForm.dst.hasType [.d] = true ∧
    rowForm.src0.hasType [.d] = false ∧
    ({ baseForm with dst := .reg 20 0 .ud false } : Form).dst.hasType [.ud] = true := by decide

/-- The exact sums of the witness above are 0, inside both ranges. -/
theorem witness_IntegerResultsInRangeAreExact_sums :
    rowSum (params .xehp) .u8 .s8 (baseForm.admitted (.int .u8 .s8)) [] 1 7 = 0 := by
  simp [rowSum, matA, matB, RegFile.unlisted, Dw.word, elem, intVal]

theorem witness_DeclaredIntegerTypesDoNotMatter :
    SameButTypes baseForm { baseForm with dst := .reg 20 0 .ud false } ∧
    (∃ u, exec (.dpasU8S8 baseForm) (zeros .xehp) = .next u) ∧
    (∃ v, exec (.dpasU8S8 { baseForm with dst := .reg 20 0 .ud false }) (zeros .xehp) = .next v) :=
  ⟨⟨rfl, rfl, rfl, rfl, rfl, rfl⟩, ⟨_, base_on_zeros⟩, ⟨_, base_ud_on_zeros⟩⟩

theorem witness_ZeroElementsLeaveTheAccumulator (kk : Nat) :
    matA (params .xehp) (.int .u8 .s8) (baseForm.admitted (.int .u8 .s8)) [] 1 kk = 0 ∧
    matB (params .xehp) (.int .u8 .s8) (baseForm.admitted (.int .u8 .s8)) [] kk 7 = 0 := by
  simp [matA, matB, RegFile.unlisted, Dw.word, elem]

/-- The in-place form: `Dst` is `Src0`. -/
def inPlaceForm : Form :=
  { baseForm with dst := reg 10 }

theorem witness_InPlaceDpasAccumulatesTwice :
    inPlaceForm.src0 ≠ .null ∧
    operandGrf (params .xehp) inPlaceForm.src0 = operandGrf (params .xehp) inPlaceForm.dst ∧
    (∃ u, exec (.dpasU8S8 inPlaceForm) (zeros .xehp) = .next u ∧ ∃ v, exec (.dpasU8S8 inPlaceForm) u = .next v) := by
  refine ⟨by decide, by decide, _,
    exec_row (k := .int .u8 .s8) (f := inPlaceForm) (new := []) (zeros .xehp) rfl rfl (by decide) (by decide +kernel) (by decide +kernel), _,
    exec_row (k := .int .u8 .s8) (f := inPlaceForm) (new := []) ({ zeros .xehp with pc := 1 }) rfl rfl (by decide) (by decide +kernel) (by decide +kernel)⟩

theorem witness_BfRowNestsEightStages :
    Legal (params .xehp) .bf (floatForm.admitted .bf) ∧
      SourcesHeld (params .xehp) .bf (floatForm.admitted .bf) (zeros .xehp).rf := by
  refine ⟨?_, sourcesHeld_zeros _ _ _⟩
  unfold Legal LegalBytes LegalOperands LegalAlignment LegalRange LegalOverlap
  decide

theorem witness_HfRowNestsEightStages :
    Legal (params .xehp) .hf (floatForm.admitted .hf) ∧
      SourcesHeld (params .xehp) .hf (floatForm.admitted .hf) (zeros .xehp).rf := by
  refine ⟨?_, sourcesHeld_zeros _ _ _⟩
  unfold Legal LegalBytes LegalOperands LegalAlignment LegalRange LegalOverlap
  decide

/-- Some function has the named property, in each format: the one that picks the F number of the total where there is one. -/
theorem witness_ExactStageFunctionsGiveTheExamples (h : HalfFormat) : ∃ g, ExactWhenRepresentable h g := by
  classical
  refine ⟨fun acc b0 b1 a0 a1 =>
    if hv : FRepresentable (fUnits acc * 2 ^ 149 + h.units b0 * h.units a0 + h.units b1 * h.units a1)
    then hv.choose else 0, ?_⟩
  intro acc b0 b1 a0 a1 _ _ _ _ _ _ _ _ _ _ hv
  simp only [dif_pos hv]
  exact hv.choose_spec

theorem witness_GenericRowRunsTheStages :
    Legal (params .xehp) (.int .u8 .s8) baseTerm ∧ SourcesHeld (params .xehp) (.int .u8 .s8) baseTerm (zeros .xehp).rf :=
  (witness_IntegerRowsComputeTheMatrixForm .u8 .s8).1

/-- An instruction that answers a next state, and dwords on both sides of the edge of its `Dst`, GRFs 20 and 21. -/
theorem witness_DpasChangesOnlyItsDestination :
    (∃ u, exec (.dpasU8S8 baseForm) (zeros .xehp) = .next u) ∧
    WritesDw (params .xehp) (Instr.dpasU8S8 baseForm).term 175 ∧
    ¬ WritesDw (params .xehp) (Instr.dpasU8S8 baseForm).term 176 := by
  refine ⟨⟨_, base_on_zeros⟩, ?_, ?_⟩ <;>
    · unfold WritesDw
      decide

theorem witness_MaskCodesEnableTheirChannels : 8 ≤ (0b1000 : BitVec 4).toNat ∧ 8 ≤ (0b1111 : BitVec 4).toNat := by decide

/-- Two states that differ in a dword of no source: `r42.0`. -/
theorem witness_ResultDependsOnTheSourcesOnly :
    (∀ x ∈ readCells (params .xehp) (.int .u8 .s8) baseTerm,
      RegFile.read [(336, .val 7)] x = RegFile.read (zeros .xehp).rf x) ∧
    (zeros .xehp).rf ≠ [(336, .val 7)] ∧ ∃ u, exec (.dpasU8S8 baseForm) (zeros .xehp) = .next u :=
  ⟨by decide +kernel, by decide, _, base_on_zeros⟩

/-- Rows 0 and 1 of A, and rows 0 and 1 of C, are equal where every dword holds 0. -/
theorem witness_AllRowsMultiplyOneB :
    dpasKind baseTerm = some (.int .u8 .s8) ∧ 0 < baseTerm.rc.toNat ∧ 1 < baseTerm.rc.toNat ∧
    (∀ kk, matA (params .xehp) (.int .u8 .s8) baseTerm [] 0 kk = matA (params .xehp) (.int .u8 .s8) baseTerm [] 1 kk) ∧
    channelEnabled (params .xehp) baseTerm.execSize.maskCode 7 = true ∧
    matC (params .xehp) baseTerm [] 0 7 = matC (params .xehp) baseTerm [] 1 7 :=
  ⟨by decide, by decide, by decide, fun kk => by simp [matA, RegFile.unlisted, Dw.word, elem], by decide, by decide⟩

/-- Columns 0 and 7 of B, and of C, are equal where every dword holds 0. -/
theorem witness_AllChannelsMultiplyOneA :
    (∀ kk, matB (params .xehp) (.int .u8 .s8) baseTerm [] kk 0 = matB (params .xehp) (.int .u8 .s8) baseTerm [] kk 7) ∧
    channelEnabled (params .xehp) baseTerm.execSize.maskCode 0 = true ∧
    matC (params .xehp) baseTerm [] 1 0 = matC (params .xehp) baseTerm [] 1 7 :=
  ⟨fun kk => by simp [matB, RegFile.unlisted, Dw.word, elem], by decide, by decide⟩

theorem witness_LiteralPseudocodeAgrees :
    dpasKind baseTerm = some (.int .u8 .s8) ∧ ∃ u, exec (.dpas baseTerm) (zeros .xehp) = .next u :=
  ⟨by decide, _, base_on_zeros⟩

theorem witness_SeparateDestinationIsIdempotent :
    operandGrf (params .xehp) baseTerm.src0 ≠ operandGrf (params .xehp) baseTerm.dst ∧
    (∃ u v, exec (.dpasU8S8 rowForm) (zeros .xehp) = .next u ∧ exec (.dpasU8S8 rowForm) u = .next v) :=
  ⟨by decide, _, _, row_on_zeros (zeros .xehp) rfl rfl, row_on_zeros { zeros .xehp with rf := [], pc := 1 } rfl rfl⟩

/-- `r37.0`, in the last GRF of `Src1`, is unwritten. -/
theorem witness_UnwrittenSourcesFault :
    Legal (params .xehp) (.int .u8 .s8) (baseForm.admitted (.int .u8 .s8)) ∧
    ¬ SourcesHeld (params .xehp) (.int .u8 .s8) (baseForm.admitted (.int .u8 .s8)) [(296, .unwritten)] := by
  refine ⟨(witness_IntegerRowsComputeTheMatrixForm .u8 .s8).1.1, fun h => ?_⟩
  exact h.2.1 7 (by decide) 0 (by decide) (by decide)

theorem witness_IllegalTermsAreRefused :
    (∀ k, ¬ Legal (params .xehp) k { baseTerm with sd := 4 }) ∧
    ¬ Legal (params .xehp) (.int .u8 .s8) (({ baseForm with src2 := .reg 40 4 .d false } : Form).admitted (.int .u8 .s8)) := by
  refine ⟨fun k h => ?_, ?_⟩
  · exact absurd h.1.2.2.2.2.1 (by decide)
  · unfold Legal LegalBytes LegalOperands LegalAlignment LegalRange LegalOverlap
    decide

theorem witness_RefusedPrecisionRowsStop :
    (Instr.dpasOneBit { baseTerm with w := 1 }).wf = true ∧ (Instr.dpasOneBit { baseTerm with a := 2 }).wf = true ∧
    (Instr.dpasUnusedPrecision { baseTerm with w := 0 }).wf = true ∧
    (Instr.dpasUnassignedPrecision { baseTerm with a := 0x0B }).wf = true ∧
    (Instr.dpasUnassignedPrecision { baseTerm with w := 0x10 }).wf = true ∧
    (Instr.dpasMixedPrecision { baseTerm with w := 9, a := 0x0A }).wf = true := by decide

theorem witness_RefusedDepthRowsStop :
    (Instr.dpasShallowDepth { baseTerm with sd := 1 }).wf = true ∧
    (Instr.dpasShallowDepth { baseTerm with sd := 4 }).wf = true ∧
    (Instr.dpasOtherDepth { baseTerm with sd := 0 }).wf = true ∧
    (Instr.dpasOtherDepth { baseTerm with sd := 255 }).wf = true := by decide

theorem witness_RefusedCountTypeAndSizeRowsStop :
    (Instr.dpasBadRepeatCount { baseTerm with rc := 0 }).wf = true ∧
    (Instr.dpasUnsupportedType { baseTerm with dst := .reg 20 0 .df false }).wf = true ∧
    (Instr.dpasUnsupportedType { baseTerm with src2 := .reg 40 0 .df false }).wf = true ∧
    (Instr.dpasBadExecSize { baseTerm with execSize := { sizeCode := 5, bit3 := 0, maskCode := 8 } }).wf = true := by decide

end Sys2Proof.Tests
end

section
/-! The opcode byte of the decoder (R60, R77). -/

namespace Sys2Proof.Proofs

/-- R60: the opcode is judged before the length, so no layout and no tail changes the verdict. -/
theorem decodeTerm_of_opcode_ne {op : Byte} (hop : op ≠ 0x83) (L : OperandLayout) (rest : List Byte) :
    decodeTerm L (op :: rest) = .error .unknownOpcode := by
  simp only [decodeTerm, List.head?_cons, if_pos hop]

theorem opcode_of_decodeTerm_ok {L : OperandLayout} {op : Byte} {rest : List Byte} {t : Dpas}
    (h : decodeTerm L (op :: rest) = .ok t) : op = 0x83 := by
  by_contra hop
  rw [decodeTerm_of_opcode_ne hop] at h
  cases h

/-- Settles O2: the verdict comes from the opcode branch alone, and the second clause is its contrapositive. -/
theorem otherOpcodesAreUnknown : Obligations.OtherOpcodesAreUnknown :=
  fun L _ rest => ⟨fun hop => decodeTerm_of_opcode_ne hop L rest, fun _ => opcode_of_decodeTerm_ok⟩

end Sys2Proof.Proofs
end

section
/-! The operands of a stage as elements of the matrices of R122, and what one element of D depends on (R106, R123, R124). -/

namespace Sys2Proof.Proofs

open Machine

/-! `OPS_PER_CHAN` and the dword of `Src1` (R106, R107). -/

theorem intPrecBits_ne_sixteen (w : IntPrec) : intPrecBits w ≠ 16 := by
  cases w <;> decide

theorem kindOps_int (w a : IntPrec) :
    kindOps (.int w a) = if intPrecBits w = 8 ∨ intPrecBits a = 8 then 4 else 8 :=
  if_neg (intPrecBits_ne_sixteen w)

/-- Settles O16: no integer width is 16, so the widths 8 alone decide between 4 and 8. -/
theorem opsPerChannelOfEveryKind : Obligations.OpsPerChannelOfEveryKind := by
  refine ⟨⟨rfl, rfl⟩, fun w a => ⟨fun h8 => ?_, fun hNarrow => ?_⟩⟩
  · rw [kindOps_int, if_pos h8]
  · rw [kindOps_int, if_neg (by omega)]

/-- The stages that one dword of `Src1` feeds use up its elements (R107). -/
theorem kindS1opc_mul_kindOps (k : Kind) : kindS1opc k * kindOps k = 32 / kindP1 k := by
  cases k with
  | int w a => cases w <;> cases a <;> rfl
  | bf => rfl
  | hf => rfl

/-! Element `j` of stage `d` stands at `kk = d * OPS + j` in a row of A and in a column of B (R122). -/

theorem stageElement_lt_kindK {k : Kind} {d j : Nat} (hd : d < 8) (hj : j < kindOps k) :
    d * kindOps k + j < kindK k 8 :=
  calc d * kindOps k + j < (d + 1) * kindOps k := by rw [Nat.succ_mul]; omega
    _ ≤ kindK k 8 := Nat.mul_le_mul_right _ hd

theorem stageElement_div {ops d j : Nat} (hj : j < ops) (q : Nat) : (d * ops + j) / (q * ops) = d / q := by
  rw [Nat.mul_comm q, ← Nat.div_div_eq_div_mul, Nat.mul_comm d, Nat.mul_add_div (by omega), Nat.div_eq_of_lt hj,
    Nat.add_zero]

theorem stageElement_mod {ops d j : Nat} (hj : j < ops) (q : Nat) :
    (d * ops + j) % (q * ops) = d % q * ops + j := by
  rw [Nat.mul_comm q, Nat.mod_mul, Nat.mul_comm d, Nat.mul_add_mod, Nat.mod_eq_of_lt hj, Nat.mul_add_div (by omega),
    Nat.div_eq_of_lt hj, Nat.add_zero, Nat.mul_comm, Nat.add_comm]

theorem accIn_eq_matC (p : Params) (t : Dpas) (rf : RegFile) (r i : Nat) : accIn p t rf r i = matC p t rf r i := by
  unfold accIn matC
  cases t.src0 <;> rfl

theorem stageA_eq_matA {t : Dpas} (hsd : t.sd = 8) (p : Params) (k : Kind) (rf : RegFile) (r d : Nat) :
    stageA p k t rf r d = (List.range (kindOps k)).map fun j => matA p k t rf r (d * kindOps k + j) := by
  refine List.map_congr_left fun j _ => ?_
  have hIndex : (r * t.sd.toNat + d) * kindOps k + j = r * (8 * kindOps k) + (d * kindOps k + j) := by
    rw [hsd, show (8 : Byte).toNat = 8 from rfl]; ring
  rw [hIndex]; rfl

theorem stageB_eq_matB (p : Params) (k : Kind) (t : Dpas) (rf : RegFile) (d i : Nat) :
    stageB p k t rf d i = (List.range (kindOps k)).map fun j => matB p k t rf (d * kindOps k + j) i := by
  refine List.map_congr_left fun j hj => ?_
  have hj : j < kindOps k := List.mem_range.mp hj
  rw [matB, ← kindS1opc_mul_kindOps, stageElement_div hj, stageElement_mod hj]; rfl

/-! One element of D is a function of its element of C, its row of A and its column of B alone. -/

theorem resultAt_congr {p : Params} {k : Kind} {t : Dpas} {rf : RegFile} {r r' c c' : Nat} (hsd : t.sd = 8)
    (hC : matC p t rf r c = matC p t rf r' c')
    (hA : ∀ kk < kindK k 8, matA p k t rf r kk = matA p k t rf r' kk)
    (hB : ∀ kk < kindK k 8, matB p k t rf kk c = matB p k t rf kk c') :
    resultAt p k t rf r c = resultAt p k t rf r' c' := by
  unfold resultAt accAfter
  rw [accIn_eq_matC, accIn_eq_matC, hC]
  refine List.foldl_ext _ _ _ fun acc d hd => ?_
  have hd : d < 8 := by simpa [hsd] using hd
  have hStageA : stageA p k t rf r d = stageA p k t rf r' d := by
    rw [stageA_eq_matA hsd, stageA_eq_matA hsd]
    exact List.map_congr_left fun j hj => hA _ (stageElement_lt_kindK hd (List.mem_range.mp hj))
  have hStageB : stageB p k t rf d c = stageB p k t rf d c' := by
    rw [stageB_eq_matB, stageB_eq_matB]
    exact List.map_congr_left fun j hj => hB _ (stageElement_lt_kindK hd (List.mem_range.mp hj))
  rw [hStageA, hStageB]

/-- What an instruction of kind `k` that completes has done (R119, R125). -/
theorem exec_next_of_kind {k : Kind} {i : Instr} {s u : State} (hk : dpasKind i.term = some k)
    (h : exec i s = .next u) :
    judge s.params i.term = .ok k ∧ sourcesWritten s.params k i.term s.rf = true ∧
      u = s.retire (newCells s.params k i.term s.rf) := by
  obtain ⟨k', hj, hw, rfl⟩ := runDpas_next (exec_next h)
  obtain ⟨-, -, -, hk', -⟩ := judge_eq_ok.mp hj
  obtain rfl : k' = k := by simpa [hk'] using hk
  exact ⟨hj, hw, rfl⟩

/-- An enabled dword of `Dst` after an instruction that completes (R119, R121). -/
theorem read_dst_of_exec_next {k : Kind} {i : Instr} {s u : State} {r c : Nat} (hk : dpasKind i.term = some k)
    (h : exec i s = .next u) (hr : r < i.term.rc.toNat) (hc : c < grfDw s.params.platform)
    (he : channelEnabled s.params i.term.execSize.maskCode c = true) :
    RegFile.read u.rf (flatIndex s.params (operandGrf s.params i.term.dst + r) c) =
      .val (resultAt s.params k i.term s.rf r c) := by
  obtain ⟨-, -, rfl⟩ := exec_next_of_kind hk h
  exact read_newCells hr hc he

theorem depth_of_exec_next {i : Instr} {s u : State} (h : exec i s = .next u) : i.term.sd = 8 := by
  obtain ⟨_, hj, -, -⟩ := runDpas_next (exec_next h)
  exact (judge_checks hj).1

/-- Settles O35: two rows of one channel use one column of B, so equal rows of A and equal C give one result. -/
theorem allRowsMultiplyOneB : Obligations.AllRowsMultiplyOneB := by
  intro k i s u r r' hk h hr hr' hA c hc he hC
  rw [read_dst_of_exec_next hk h hr hc he, read_dst_of_exec_next hk h hr' hc he,
    resultAt_congr (depth_of_exec_next h) hC hA fun _ _ => rfl]

/-- Settles O36: two channels of one row use one row of A, so equal columns of B and equal C give one result. -/
theorem allChannelsMultiplyOneA : Obligations.AllChannelsMultiplyOneA := by
  intro k i s u c c' hk h hc hc' he he' hB r hr hC
  rw [read_dst_of_exec_next hk h hr hc he, read_dst_of_exec_next hk h hr hc' he',
    resultAt_congr (depth_of_exec_next h) hC (fun _ _ => rfl) hB]

end Sys2Proof.Proofs
end

section
/-! The kind of a term and the precision bytes (R68, R102). -/

namespace Sys2Proof.Proofs

open Machine

/-- The code of a precision in the table of R68. -/
def precCode : Precision → Byte
  | .u1 => 0x1
  | .s1 => 0x2
  | .u2 => 0x3
  | .s2 => 0x4
  | .u4 => 0x5
  | .s4 => 0x6
  | .u8 => 0x7
  | .s8 => 0x8
  | .bf => 0x9
  | .hf => 0xA
  | .tf32 => 0xC

theorem precisionOfByte_eq_some (b : Byte) : ∀ p, precisionOfByte b = some p → b = precCode p := by
  have hAll : ∀ b : Byte, ∀ p ∈ precisionOfByte b, b = precCode p := by decide
  exact hAll b

theorem precCode_of_intPrecOf {q : Precision} {w : IntPrec} (h : intPrecOf q = some w) : precCode q = intPrecCode w := by
  have hAll : ∀ w' ∈ intPrecOf q, precCode q = intPrecCode w' := by cases q <;> decide
  exact hAll w h

theorem precCode_of_kindOfPrecisions {pw pa : Precision} {k : Kind} (h : kindOfPrecisions pw pa = some k) :
    precCode pw = kindCodeW k ∧ precCode pa = kindCodeA k := by
  unfold kindOfPrecisions at h
  split at h
  · next w a hw ha =>
    obtain rfl := Option.some.inj h
    exact ⟨precCode_of_intPrecOf hw, precCode_of_intPrecOf ha⟩
  · split at h
    · obtain rfl := Option.some.inj h
      exact ⟨rfl, rfl⟩
    · obtain rfl := Option.some.inj h
      exact ⟨rfl, rfl⟩
    · cases h

/-- R102: the kind and the two precision bytes determine each other. -/
theorem dpasKind_eq_some {t : Dpas} {k : Kind} : dpasKind t = some k ↔ t.w = kindCodeW k ∧ t.a = kindCodeA k := by
  constructor
  · intro h
    unfold dpasKind at h
    split at h
    · next pw pa hw ha =>
      rw [precisionOfByte_eq_some _ _ hw, precisionOfByte_eq_some _ _ ha]
      exact precCode_of_kindOfPrecisions h
    · cases h
  · rintro ⟨hw, ha⟩
    calc dpasKind t = dpasKind (t.toForm.withKind k 8) := by simp only [dpasKind, Form.withKind, hw, ha]
      _ = some k := dpasKind_admitted k t.toForm

theorem dpasKind_eq_none {t : Dpas} : dpasKind t = none ↔ ∀ k, ¬ (t.w = kindCodeW k ∧ t.a = kindCodeA k) := by
  simp only [Option.eq_none_iff_forall_ne_some, ne_eq, dpasKind_eq_some]

theorem kind_of_judge_ok {p : Params} {t : Dpas} {k : Kind} (h : judge p t = .ok k) : dpasKind t = some k := by
  obtain ⟨-, -, -, hk, -⟩ := judge_eq_ok.mp h
  exact hk

/-- The verdict on a term with no kind is a refusal, so the generic row refuses it. -/
theorem runDpas_refuses_of_no_kind {t : Dpas} (h : dpasKind t = none) (s : State) : ∃ r, runDpas t s = .refused r := by
  rcases runDpas_eq t s with ⟨r, -, hr⟩ | ⟨k, hj, -⟩ | ⟨k, hj, -⟩
  · exact ⟨r, hr⟩
  · exact absurd (kind_of_judge_ok hj) (by simp [h])
  · exact absurd (kind_of_judge_ok hj) (by simp [h])

/-- Settles O17: the codes of a kind name its precisions, and no other bytes do. -/
theorem kindIsAFunctionOfTwoBytes : Obligations.KindIsAFunctionOfTwoBytes :=
  fun _ => ⟨fun _ => dpasKind_eq_some, fun h s => runDpas_refuses_of_no_kind h s⟩

end Sys2Proof.Proofs
end

section
/-! The rows of the opcode table (R78; log 15): every constructor but eleven is an admitted row, and the row of a term. -/

namespace Sys2Proof.Proofs

open Machine

/-- A claim about every instruction: the generic row, the 38 admitted rows as one, and the ten rows of refused forms. -/
theorem byRow {motive : Instr → Prop} (dpas : ∀ t, motive (.dpas t)) (admitted : ∀ k f, motive (kindRow k f))
    (oneBit : ∀ t, motive (.dpasOneBit t)) (tf32 : ∀ f sd, motive (.dpasTf32Tf32 f sd))
    (unusedPrecision : ∀ t, motive (.dpasUnusedPrecision t)) (unassignedPrecision : ∀ t, motive (.dpasUnassignedPrecision t))
    (mixedPrecision : ∀ t, motive (.dpasMixedPrecision t)) (shallowDepth : ∀ t, motive (.dpasShallowDepth t))
    (otherDepth : ∀ t, motive (.dpasOtherDepth t)) (badRepeatCount : ∀ t, motive (.dpasBadRepeatCount t))
    (unsupportedType : ∀ t, motive (.dpasUnsupportedType t)) (badExecSize : ∀ t, motive (.dpasBadExecSize t)) :
    ∀ i, motive i
  | .dpas t => dpas t
  | .dpasU2U2 f => admitted (.int .u2 .u2) f
  | .dpasU2S2 f => admitted (.int .u2 .s2) f
  | .dpasU2U4 f => admitted (.int .u2 .u4) f
  | .dpasU2S4 f => admitted (.int .u2 .s4) f
  | .dpasU2U8 f => admitted (.int .u2 .u8) f
  | .dpasU2S8 f => admitted (.int .u2 .s8) f
  | .dpasS2U2 f => admitted (.int .s2 .u2) f
  | .dpasS2S2 f => admitted (.int .s2 .s2) f
  | .dpasS2U4 f => admitted (.int .s2 .u4) f
  | .dpasS2S4 f => admitted (.int .s2 .s4) f
  | .dpasS2U8 f => admitted (.int .s2 .u8) f
  | .dpasS2S8 f => admitted (.int .s2 .s8) f
  | .dpasU4U2 f => admitted (.int .u4 .u2) f
  | .dpasU4S2 f => admitted (.int .u4 .s2) f
  | .dpasU4U4 f => admitted (.int .u4 .u4) f
  | .dpasU4S4 f => admitted (.int .u4 .s4) f
  | .dpasU4U8 f => admitted (.int .u4 .u8) f
  | .dpasU4S8 f => admitted (.int .u4 .s8) f
  | .dpasS4U2 f => admitted (.int .s4 .u2) f
  | .dpasS4S2 f => admitted (.int .s4 .s2) f
  | .dpasS4U4 f => admitted (.int .s4 .u4) f
  | .dpasS4S4 f => admitted (.int .s4 .s4) f
  | .dpasS4U8 f => admitted (.int .s4 .u8) f
  | .dpasS4S8 f => admitted (.int .s4 .s8) f
  | .dpasU8U2 f => admitted (.int .u8 .u2) f
  | .dpasU8S2 f => admitted (.int .u8 .s2) f
  | .dpasU8U4 f => admitted (.int .u8 .u4) f
  | .dpasU8S4 f => admitted (.int .u8 .s4) f
  | .dpasU8U8 f => admitted (.int .u8 .u8) f
  | .dpasU8S8 f => admitted (.int .u8 .s8) f
  | .dpasS8U2 f => admitted (.int .s8 .u2) f
  | .dpasS8S2 f => admitted (.int .s8 .s2) f
  | .dpasS8U4 f => admitted (.int .s8 .u4) f
  | .dpasS8S4 f => admitted (.int .s8 .s4) f
  | .dpasS8U8 f => admitted (.int .s8 .u8) f
  | .dpasS8S8 f => admitted (.int .s8 .s8) f
  | .dpasBfBf f => admitted .bf f
  | .dpasHfHf f => admitted .hf f
  | .dpasOneBit t => oneBit t
  | .dpasTf32Tf32 f sd => tf32 f sd
  | .dpasUnusedPrecision t => unusedPrecision t
  | .dpasUnassignedPrecision t => unassignedPrecision t
  | .dpasMixedPrecision t => mixedPrecision t
  | .dpasShallowDepth t => shallowDepth t
  | .dpasOtherDepth t => otherDepth t
  | .dpasBadRepeatCount t => badRepeatCount t
  | .dpasUnsupportedType t => unsupportedType t
  | .dpasBadExecSize t => badExecSize t

@[simp] theorem admitted_toForm (f : Form) (k : Kind) : (f.admitted k).toForm = f := rfl

@[simp] theorem kindRow_wf (k : Kind) (f : Form) : (kindRow k f).wf = f.admittedRow := by
  cases k with
  | int w a => cases w <;> cases a <;> rfl
  | bf => rfl
  | hf => rfl

/-- A term with a kind is past every row that refuses by precision. -/
theorem precisions_of_kind {t : Dpas} {k : Kind} (h : dpasKind t = some k) :
    t.hasUnusedPrecision = false ∧ t.hasUnassignedPrecision = false ∧ t.hasOneBit = false ∧ t.hasTf32 = false := by
  obtain ⟨hw, ha⟩ := dpasKind_eq_some.mp h
  simp only [Dpas.hasUnusedPrecision, Dpas.hasUnassignedPrecision, Dpas.hasOneBit, Dpas.hasTf32, hw, ha]
  cases k with
  | int w a => cases w <;> cases a <;> exact ⟨rfl, rfl, rfl, rfl⟩
  | bf => exact ⟨rfl, rfl, rfl, rfl⟩
  | hf => exact ⟨rfl, rfl, rfl, rfl⟩

theorem isTf32_of_hasTf32_false {t : Dpas} (h : t.hasTf32 = false) : t.isTf32 = false := by
  simp only [Dpas.hasTf32, Bool.or_eq_false_iff] at h
  simp only [Dpas.isTf32, h.1, Bool.false_and]

theorem admitted_of_codes {t : Dpas} {k : Kind} (hk : dpasKind t = some k) (hsd : t.sd = 8) :
    t.toForm.admitted k = t := by
  obtain ⟨hw, ha⟩ := dpasKind_eq_some.mp hk
  simp only [Form.admitted, Form.withKind, ← hw, ← ha, ← hsd]

theorem tf32_term {t : Dpas} (h : t.isTf32 = true) : (Instr.dpasTf32Tf32 t.toForm t.sd).term = t := by
  obtain ⟨hw, ha⟩ : t.w = 0x0C ∧ t.a = 0x0C := by simpa [Dpas.isTf32] using h
  obtain ⟨f, w, a, sd⟩ := t
  subst hw ha
  rfl

theorem term_ite {c : Prop} [Decidable c] {i j : Instr} {t : Dpas} (hi : c → i.term = t) (hj : ¬ c → j.term = t) :
    (if c then i else j).term = t :=
  iteInduction (motive := fun i : Instr => i.term = t) hi hj

@[simp] theorem term_ofTerm (t : Dpas) : (Instr.ofTerm t).term = t := by
  unfold Instr.ofTerm
  refine term_ite (fun _ => rfl) fun _ => term_ite (fun _ => rfl) fun _ => term_ite (fun _ => rfl) fun _ =>
    term_ite (fun _ => rfl) fun _ => term_ite tf32_term fun _ => term_ite (fun _ => rfl) fun _ => ?_
  cases hk : dpasKind t with
  | none => rfl
  | some k =>
    exact term_ite (fun _ => rfl) fun _ => term_ite (fun _ => rfl) fun hsd => term_ite (fun _ => rfl) fun _ =>
      term_ite (fun _ => rfl) fun _ => by rw [kindRow_term, admitted_of_codes hk (not_not.mp hsd)]

/-- The row of a term with encodable operands is well formed: each branch has met the conditions of its row. -/
theorem ofTerm_wf {t : Dpas} (h : t.toForm.encodable = true) : (Instr.ofTerm t).wf = true := by
  unfold Instr.ofTerm
  split
  · next hSize => simp [Instr.wf, h, hSize]
  next hSize =>
  split
  · next hUnused => simp [Instr.wf, h, hSize, hUnused]
  next hUnused =>
  split
  · next hUnassigned => simp [Instr.wf, h, hSize, hUnused, hUnassigned]
  next hUnassigned =>
  have hCodes : t.pastCodes = true := by simp [Dpas.pastCodes, h, hSize, hUnused, hUnassigned]
  split
  · next hOneBit => simp [Instr.wf, hCodes, hOneBit]
  next hOneBit =>
  split
  · simp [Instr.wf, h, hSize]
  next hTwoTf32 =>
  split
  · next hTf32 => simp [Instr.wf, hCodes, hOneBit, hTwoTf32, hTf32]
  next hTf32 =>
  split
  · next hk => simp [Instr.wf, hCodes, hOneBit, hTf32, hk]
  next k hk =>
  have hPrecisions : t.pastPrecisions = true := by simp [Dpas.pastPrecisions, hCodes, hOneBit, hTf32, hk]
  split
  · next hShallow => simp [Instr.wf, hPrecisions, hShallow]
  next hShallow =>
  split
  · next hsd => simp_all [Instr.wf]
  next hsd =>
  split
  · next hRc => simp_all [Instr.wf]
  next hRc =>
  split
  · next hType => simp_all [Instr.wf]
  next hType => simp_all [Form.admittedRow]

/-- Of a term with a kind, past the row of its size code, the depth, the count and the types decide the row. -/
theorem ofTerm_of_kind {t : Dpas} {k : Kind} (hSize : t.execSize.neverLegal = false) (hk : dpasKind t = some k) :
    Instr.ofTerm t =
      if depthIsShallow t.sd = true then .dpasShallowDepth t
      else if t.sd ≠ 8 then .dpasOtherDepth t
      else if t.rc = 0 then .dpasBadRepeatCount t
      else if t.toForm.hasUnsupportedType = true then .dpasUnsupportedType t
      else kindRow k t.toForm := by
  obtain ⟨hUnused, hUnassigned, hOneBit, hTf32⟩ := precisions_of_kind hk
  simp only [Instr.ofTerm, hSize, hUnused, hUnassigned, hOneBit, isTf32_of_hasTf32_false hTf32, hTf32, hk,
    Bool.false_eq_true, if_false]

theorem kind_of_pastPrecisions {t : Dpas} (h : t.pastPrecisions = true) :
    t.execSize.neverLegal = false ∧ ∃ k, dpasKind t = some k := by
  simp only [Dpas.pastPrecisions, Dpas.pastCodes, Bool.and_eq_true, Bool.not_eq_true', Option.isSome_iff_exists] at h
  obtain ⟨⟨⟨⟨⟨⟨-, hSize⟩, -⟩, -⟩, -⟩, -⟩, hk⟩ := h
  exact ⟨hSize, hk⟩

/-- A term that no row of refused forms takes belongs to the admitted row of its kind. -/
theorem ofTerm_eq_kindRow {t : Dpas} {k : Kind} (hSize : t.execSize.neverLegal = false) (hk : dpasKind t = some k)
    (hsd : t.sd = 8) (hRc : t.rc ≠ 0) (hType : t.toForm.hasUnsupportedType = false) :
    Instr.ofTerm t = kindRow k t.toForm := by
  have hShallow : depthIsShallow 8 = false := rfl
  simp only [ofTerm_of_kind hSize hk, hsd, hShallow, hType, Bool.false_eq_true, ne_eq, not_true_eq_false, if_false,
    if_neg hRc]

/-- A well-formed instruction is the row of its term. -/
theorem ofTerm_term (i : Instr) (h : i.wf = true) : Instr.ofTerm i.term = i := by
  induction i using byRow with
  | admitted k f =>
    simp only [kindRow_wf, Form.admittedRow, Bool.and_eq_true, Bool.not_eq_true', bne_iff_ne] at h
    obtain ⟨⟨⟨-, hSize⟩, hRc⟩, hType⟩ := h
    rw [kindRow_term]
    exact ofTerm_eq_kindRow hSize (dpasKind_admitted k f) rfl hRc hType
  | tf32 f sd =>
    have hCodes : (Instr.dpasTf32Tf32 f sd).term.hasUnusedPrecision = false ∧
        (Instr.dpasTf32Tf32 f sd).term.hasUnassignedPrecision = false ∧
        (Instr.dpasTf32Tf32 f sd).term.hasOneBit = false ∧ (Instr.dpasTf32Tf32 f sd).term.isTf32 = true :=
      ⟨rfl, rfl, rfl, rfl⟩
    simp_all [Instr.wf, Instr.term, Instr.ofTerm]
  | dpas t => simp_all [Instr.wf, Instr.term, Instr.ofTerm, Dpas.pastCodes]
  | oneBit t => simp_all [Instr.wf, Instr.term, Instr.ofTerm, Dpas.pastCodes]
  | unusedPrecision t => simp_all [Instr.wf, Instr.term, Instr.ofTerm]
  | unassignedPrecision t => simp_all [Instr.wf, Instr.term, Instr.ofTerm]
  | mixedPrecision t => simp_all [Instr.wf, Instr.term, Instr.ofTerm, Dpas.pastCodes, isTf32_of_hasTf32_false]
  | badExecSize t => simp_all [Instr.wf, Instr.term, Instr.ofTerm]
  | shallowDepth t =>
    simp only [Instr.wf, Bool.and_eq_true] at h
    obtain ⟨hPast, hShallow⟩ := h
    obtain ⟨hSize, k, hk⟩ := kind_of_pastPrecisions hPast
    have hRow := ofTerm_of_kind hSize hk
    simp_all [Instr.term]
  | otherDepth t =>
    simp only [Instr.wf, Bool.and_eq_true] at h
    obtain ⟨⟨hPast, hShallow⟩, hsd⟩ := h
    obtain ⟨hSize, k, hk⟩ := kind_of_pastPrecisions hPast
    have hRow := ofTerm_of_kind hSize hk
    simp_all [Instr.term]
  | badRepeatCount t =>
    simp only [Instr.wf, Bool.and_eq_true] at h
    obtain ⟨⟨hPast, hsd⟩, hRc⟩ := h
    obtain ⟨hSize, k, hk⟩ := kind_of_pastPrecisions hPast
    have hRow := ofTerm_of_kind hSize hk
    simp_all [Instr.term, depthIsShallow]
  | unsupportedType t =>
    simp only [Instr.wf, Bool.and_eq_true] at h
    obtain ⟨⟨⟨hPast, hsd⟩, hRc⟩, hType⟩ := h
    obtain ⟨hSize, k, hk⟩ := kind_of_pastPrecisions hPast
    have hRow := ofTerm_of_kind hSize hk
    simp_all [Instr.term, depthIsShallow]

/-- Settles O6: `ofTerm_wf` and `term_ofTerm` for terms, `ofTerm_term` for instructions. -/
theorem everyTermHasOneRow : Obligations.EveryTermHasOneRow :=
  ⟨fun t h => ⟨ofTerm_wf h, term_ofTerm t⟩, ofTerm_term⟩

end Sys2Proof.Proofs
end

section
/-! The fields of an instruction as bytes (R61 to R63, R66), and the round trip of encoder and decoder. -/

namespace Sys2Proof.Proofs

open Machine

/-! Cutting an appended list of bytes. -/

theorem bytesAt_append_left {xs : List Byte} {off n : Nat} (h : off + n ≤ xs.length) (ys : List Byte) :
    bytesAt (xs ++ ys) off n = bytesAt xs off n := by
  rw [bytesAt, bytesAt, List.drop_append_of_le_length (by omega), List.take_append_of_le_length (by simp; omega)]

theorem bytesAt_append_right {xs ys : List Byte} {off n : Nat} (hOff : off = xs.length) (hn : ys.length = n) :
    bytesAt (xs ++ ys) off n = ys := by
  rw [bytesAt, hOff, List.drop_left, ← hn, List.take_length]

theorem byteAt_append_left {xs : List Byte} {off : Nat} (h : off < xs.length) (ys : List Byte) :
    byteAt (xs ++ ys) off = byteAt xs off :=
  List.getD_append _ _ _ _ h

theorem byteAt_append_right {xs : List Byte} {off : Nat} (h : off = xs.length) (b : Byte) :
    byteAt (xs ++ [b]) off = b := by
  rw [byteAt, List.getD_append_right _ _ _ _ h.ge, h, Nat.sub_self, List.getD_cons_zero]

/-- Settles O3: each cut of `decodeTerm` falls on the boundary where its field was appended. -/
theorem decoderCutsTheFieldsInOrder : Obligations.DecoderCutsTheFieldsInOrder := by
  intro L e w a sd rc xD xC xB xA hD hC hB hA
  have hLength : ([0x83] ++ [e] ++ xD ++ xC ++ xB ++ xA ++ [w] ++ [a] ++ [sd] ++ [rc]).length = instrBytes L := by
    simp [instrBytes, hD, hC, hB, hA]; omega
  have hHead : ([0x83] ++ [e] ++ xD ++ xC ++ xB ++ xA ++ [w] ++ [a] ++ [sd] ++ [rc]).head? = some 0x83 := rfl
  simp only [decodeTerm, hHead, hLength, ne_eq, not_true_eq_false, lt_irrefl, if_false]
  simp (disch := simp +arith only [List.length_append, List.length_cons, List.length_nil, hD, hC, hB, hA]) only
    [bytesAt_append_left, bytesAt_append_right, byteAt_append_left, byteAt_append_right]

/-- The converse of `decoderCutsTheFieldsInOrder`: bytes as many as an instruction has are its fields, one after the other. -/
theorem exists_fields {L : OperandLayout} {bs : List Byte} (h : (0x83 :: bs).length = instrBytes L) :
    ∃ (e w a sd rc : Byte) (xD xC xB xA : List Byte),
      xD.length = L.rawBytes ∧ xC.length = L.rawBytes ∧ xB.length = L.rawBytes ∧ xA.length = L.vecBytes ∧
      0x83 :: bs = [0x83] ++ [e] ++ xD ++ xC ++ xB ++ xA ++ [w] ++ [a] ++ [sd] ++ [rc] := by
  obtain ⟨e, tail, rfl⟩ : ∃ e tail, bs = e :: tail :=
    List.exists_cons_of_length_pos (by simp only [List.length_cons, instrBytes] at h; omega)
  have hTail : tail.length = 3 * L.rawBytes + L.vecBytes + 4 := by
    simp only [List.length_cons, instrBytes] at h; omega
  have hFour : (tail.drop (3 * L.rawBytes + L.vecBytes)).length = 4 := by simp [hTail]
  obtain ⟨w, a, sd, rc, hBytes⟩ := List.length_eq_four.mp hFour
  refine ⟨e, w, a, sd, rc, tail.take L.rawBytes, (tail.drop L.rawBytes).take L.rawBytes,
    (tail.drop (2 * L.rawBytes)).take L.rawBytes, (tail.drop (3 * L.rawBytes)).take L.vecBytes,
    by simp; omega, by simp; omega, by simp; omega, by simp; omega, ?_⟩
  have hOperands : tail.take (3 * L.rawBytes + L.vecBytes) = tail.take L.rawBytes ++
      (tail.drop L.rawBytes).take L.rawBytes ++ (tail.drop (2 * L.rawBytes)).take L.rawBytes ++
      (tail.drop (3 * L.rawBytes)).take L.vecBytes := by
    rw [← List.take_add, ← two_mul, ← List.take_add, ← Nat.succ_mul, ← List.take_add]
  calc 0x83 :: e :: tail = 0x83 :: e :: (tail.take (3 * L.rawBytes + L.vecBytes) ++ [w, a, sd, rc]) := by
        rw [← hBytes, List.take_append_drop]
    _ = _ := by rw [hOperands]; simp

/-- What the machine decodes: the term of the fields, in the row of that term. -/
theorem decode_eq_ok {bs : List Byte} {t : Dpas} (h : decodeTerm operandLayout bs = .ok t) :
    decode bs = .ok (Instr.ofTerm t) := by
  rw [decode, h]; rfl

/-- Settles O45: the bytes are fields by `exists_fields`, and what the machine's layout resolves is encodable. -/
theorem decoderAnswersEverySlotOfItsLength : Obligations.DecoderAnswersEverySlotOfItsLength := by
  refine fun rest => ⟨fun L hLength => ?_, fun hLength => ?_⟩
  · obtain ⟨e, w, a, sd, rc, xD, xC, xB, xA, hD, hC, hB, hA, hBytes⟩ := exists_fields hLength
    rw [hBytes]
    exact ⟨_, decoderCutsTheFieldsInOrder L e w a sd rc xD xC xB xA hD hC hB hA⟩
  · obtain ⟨e, w, a, sd, rc, xD, xC, xB, xA, hD, hC, hB, hA, hBytes⟩ := exists_fields hLength
    rw [hBytes]
    refine ⟨_, decode_eq_ok (decoderCutsTheFieldsInOrder operandLayout e w a sd rc xD xC xB xA hD hC hB hA),
      ofTerm_wf ?_⟩
    simp [Form.encodable, operandLayout]

/-- A term with encodable operands is decoded from its bytes. -/
theorem decodeTerm_encodeTerm {t : Dpas} (h : t.toForm.encodable = true) :
    decodeTerm operandLayout (encodeTerm t) = .ok t := by
  simp only [Form.encodable, Bool.and_eq_true] at h
  obtain ⟨⟨⟨hD, hC⟩, hB⟩, hA⟩ := h
  have hFields : encodeTerm t = [0x83] ++ [execSizeByte t.execSize] ++ operandBytes t.dst ++ operandBytes t.src0 ++
      operandBytes t.src1 ++ operandBytes t.src2 ++ [t.w] ++ [t.a] ++ [t.sd] ++ [t.rc] := by
    simp [encodeTerm]
  rw [hFields, decoderCutsTheFieldsInOrder operandLayout _ _ _ _ _ _ _ _ _ (operandBytes_length _)
    (operandBytes_length _) (operandBytes_length _) (operandBytes_length _)]
  simp [operandLayout, resolveOperand_operandBytes, hD, hC, hB, hA]

theorem encodable_of_wf (i : Instr) (h : i.wf = true) : i.term.toForm.encodable = true := by
  induction i using byRow with
  | admitted k f => simp_all [Form.admittedRow]
  | _ => simp_all [Instr.wf, Instr.term, Dpas.pastPrecisions, Dpas.pastCodes]

/-- Settles O1: the term comes back by `decodeTerm_encodeTerm`, and its row by `ofTerm_term`. -/
theorem decodeOfEncodeIsTheInstruction : Obligations.DecodeOfEncodeIsTheInstruction := by
  intro i h
  rw [encode, decode_eq_ok (decodeTerm_encodeTerm (encodable_of_wf i h)), ofTerm_term i h]

theorem execSizeByte_execSizeOfByte (b : Byte) : execSizeByte (execSizeOfByte b) = b := by
  revert b
  decide

/-- Settles O4: the three extracted fields tile the byte. -/
theorem execSizeByteHasThreeFields : Obligations.ExecSizeByteHasThreeFields := by
  intro b
  exact ⟨by simp [execSizeOfByte], by simp [execSizeOfByte, Nat.shiftRight_eq_div_pow],
    by simp [execSizeOfByte, Nat.shiftRight_eq_div_pow]; omega, execSizeByte_execSizeOfByte b⟩

/-- Settles O5: each word is cut at its field boundaries and its row read off its codes. -/
theorem wordsDecodeToTheirRows : Obligations.WordsDecodeToTheirRows :=
  ⟨by decide, by decide, by decide⟩

end Sys2Proof.Proofs
end

section
/-! One step of a run (R24, R205): what is fetched, what it leaves, and the invariant. -/

namespace Sys2Proof.Proofs

open Machine

theorem fetch_of_decode {s : State} {bs : List Byte} {i : Instr} (hSlot : s.prog[s.pc]? = some bs)
    (hDecode : decode bs = .ok i) : s.fetch = .instr i := by
  simp only [State.fetch, hSlot, hDecode]

theorem fetch_of_reject {s : State} {bs : List Byte} {e : DecodeReject} (hSlot : s.prog[s.pc]? = some bs)
    (hDecode : decode bs = .error e) : s.fetch = .reject (refusalOfReject e) := by
  simp only [State.fetch, hSlot, hDecode]

theorem step_of_running {s : State} (h : s.outcome = .running) : step s = runStep s := by
  simp only [step, h]

/-- Settles O8: the slot is fetched as `i`, and `State.settle` is the end of the run noted. -/
theorem stepRunsTheDecodedInstruction : Obligations.StepRunsTheDecodedInstruction := by
  intro s bs i hRunning hSlot hDecode
  simp only [step_of_running hRunning, runStep, fetch_of_decode hSlot hDecode]
  cases exec i s <;> rfl

/-- Settles O9: the decoder rejects the slot by its opcode byte, and the fetch passes the reason on. -/
theorem stepRefusesUnknownOpcodes : Obligations.StepRefusesUnknownOpcodes := by
  intro s op rest hRunning hSlot hop
  have hDecode : decode (op :: rest) = .error .unknownOpcode := by
    rw [decode, decodeTerm_of_opcode_ne hop]; rfl
  simp only [step_of_running hRunning, runStep, fetch_of_reject hSlot hDecode, refusalOfReject]

/-- An instruction that completes retires the dwords of its destination and does nothing else (R125, R127). -/
theorem exec_next_retire {i : Instr} {s u : State} (h : exec i s = .next u) :
    ∃ k, judge s.params i.term = .ok k ∧ u = s.retire (newCells s.params k i.term s.rf) := by
  obtain ⟨k, hj, -, hu⟩ := runDpas_next (exec_next h)
  exact ⟨k, hj, hu⟩

/-- What a step inside the program has done. -/
theorem step_next_inside {s t : State} (hpc : s.pc < s.prog.length) (h : step s = .next t) :
    s.outcome = .running ∧ ∃ (i : Instr) (k : Kind), judge s.params i.term = .ok k ∧
      t = (s.retire (newCells s.params k i.term s.rf)).settle := by
  obtain ⟨hRunning, ⟨i, u, -, hExec, rfl⟩ | ⟨hEnd, -⟩⟩ := step_next h
  · obtain ⟨k, hj, rfl⟩ := exec_next_retire hExec
    exact ⟨hRunning, i, k, hj, rfl⟩
  · exact absurd (fetch_endOfProgram hEnd) hpc.ne

/-- Settles O10: the step retires, which adds one to `pc`, and settles, which compares it with the length. -/
theorem runAdvancesAndEnds : Obligations.RunAdvancesAndEnds := by
  intro s t hpc h
  obtain ⟨hRunning, i, k, -, rfl⟩ := step_next_inside hpc h
  simp [hRunning]

theorem step_of_refused {s : State} {r : Refusal} (h : s.outcome = .refused r) : step s = .refused r := by
  simp only [step, h]

theorem step_of_faulted {s : State} {r : Fault} (h : s.outcome = .faulted r) : step s = .fault r := by
  simp only [step, h]

theorem advance_of_refused {s : State} {r : Refusal} (h : step s = .refused r) :
    s.advance = { s with outcome := .refused r } := by
  simp only [State.advance, h]

theorem advance_of_fault {s : State} {r : Fault} (h : step s = .fault r) :
    s.advance = { s with outcome := .faulted r } := by
  simp only [State.advance, h]

/-- Settles O11: the recorded outcome is what the next step answers, so recording it again changes nothing. -/
theorem stoppedRunsStayStopped : Obligations.StoppedRunsStayStopped := by
  refine ⟨fun s r h _ => ?_, fun s r h _ => ?_, fun s t hEnded h => ?_⟩
  · rw [advance_of_refused h]
    exact ⟨rfl, step_of_refused rfl, advance_of_refused (step_of_refused rfl)⟩
  · rw [advance_of_fault h]
    exact ⟨rfl, step_of_faulted rfl, advance_of_fault (step_of_faulted rfl)⟩
  · obtain ⟨hRunning, -⟩ := step_next h
    simp [hEnded] at hRunning

/-- Settles O12: neither retiring nor settling touches the program or the parameters. -/
theorem programAndParametersAreFixed : Obligations.ProgramAndParametersAreFixed := by
  intro s t h
  obtain ⟨-, ⟨i, u, -, hExec, rfl⟩ | ⟨-, rfl⟩⟩ := step_next h
  · obtain ⟨k, -, rfl⟩ := exec_next_retire hExec
    simp
  · simp

/-! The invariant. -/

/-- Settles O14: no dword is listed, and `pc` stands at the end of the empty program. -/
theorem resetMeetsTheInvariant : Obligations.ResetMeetsTheInvariant :=
  ⟨⟨.nil, by simp [State.reset]⟩, by simp [State.reset], Nat.le_refl 0, fun _ => rfl⟩

/-- Settles O15: nothing is listed, and what is not listed reads as 0. -/
theorem resetStateIsAsLogged : Obligations.ResetStateIsAsLogged :=
  ⟨rfl, rfl, rfl, fun x => RegFile.read_nil x⟩

/-- A dword of a GRF inside the register file lies inside the register file. -/
theorem flat_lt {n g b i : Nat} (hg : g < b) (hi : i < n) : g * n + i < b * n :=
  calc g * n + i < (g + 1) * n := by rw [Nat.succ_mul]; omega
    _ ≤ b * n := Nat.mul_le_mul_right n hg

/-- R112: a DPAS that is admitted writes only dwords that exist. -/
theorem newCells_in_range {p : Params} {k : Kind} {t : Dpas} (h : judge p t = .ok k) (rf : RegFile) :
    ∀ c ∈ newCells p k t rf, c.1 < p.ngrf * grfDw p.platform := by
  intro c hc
  obtain ⟨r, hr, i, hi, -, rfl⟩ := mem_newCells.mp hc
  obtain ⟨-, -, -, -, -, hRange, -⟩ := judge_checks h
  simp only [rangeOk, Bool.and_eq_true, decide_eq_true_eq] at hRange
  obtain ⟨⟨⟨hDst, -⟩, -⟩, -⟩ := hRange
  exact flat_lt (by omega) hi

theorem inv_retire {s : State} {cells : List (Nat × Dw)} (hInv : s.Inv) (hpc : s.pc < s.prog.length)
    (hRunning : s.outcome = .running) (hCells : ∀ c ∈ cells, c.1 < s.params.ngrf * grfDw s.params.platform) :
    (s.retire cells).Inv := by
  obtain ⟨hwf, hListed, -, -⟩ := hInv
  exact ⟨RegFile.wf_writeAll hwf cells, fun c hc => (RegFile.mem_writeAll hc).elim (hCells c) (hListed c), hpc,
    fun hEnded => by simp [hRunning] at hEnded⟩

theorem inv_settle {s : State} (hInv : s.Inv) : s.settle.Inv := by
  obtain ⟨hwf, hListed, hpc, hEnded⟩ := hInv
  refine ⟨by simpa using hwf, by simpa using hListed, by simpa using hpc, ?_⟩
  simp only [State.settle_outcome, State.settle_pc, State.settle_prog]
  split
  · next hEnd => exact fun _ => hEnd
  · exact hEnded

/-- Settles O13: a step retires dwords that exist, or nothing, and settles. -/
theorem stepKeepsTheInvariant : Obligations.StepKeepsTheInvariant := by
  intro s t hInv h
  obtain ⟨hRunning, ⟨i, u, hFetch, hExec, rfl⟩ | ⟨-, rfl⟩⟩ := step_next h
  · obtain ⟨k, hj, rfl⟩ := exec_next_retire hExec
    exact inv_settle (inv_retire hInv (fetch_instr hFetch) hRunning (newCells_in_range hj s.rf))
  · exact inv_settle hInv

end Sys2Proof.Proofs
end

section
/-! The fifteen checks of R117 as plain conditions, and the reasons of a refusal (R181). -/

namespace Sys2Proof.Proofs

open Machine

/-! Each group of checks, on a term of depth 8, is the condition of `Legal` of the same name. -/

theorem execSizeOk_iff {p : Params} {t : Dpas} :
    execSizeOk p t = true ↔ t.execSize.sizeCode = platformSizeCode p.platform ∧ t.execSize.bit3 = 0 := by
  simp [execSizeOk]

theorem repeatOk_iff {p : Params} {t : Dpas} : repeatOk p t = true ↔ 1 ≤ t.rc.toNat ∧ t.rc.toNat ≤ p.rcMax := by
  simp [repeatOk]

theorem plainOperand_iff {tys : List OpType} {o : Operand} :
    plainOperand tys o = true ↔ o.hasType tys = true ∧ operandModified o = false := by
  cases o <;> simp [plainOperand, Operand.hasType, operandModified]

theorem ne_null_of_hasType {tys : List OpType} {o : Operand} (h : o.hasType tys = true) : o ≠ .null := by
  rintro rfl
  cases h

/-- Types a kind admits have a layout, so the types of check 11 pass check 10. -/
theorem hasType_unsupported_of_hasType {tys bad : List OpType} {o : Operand} (h : o.hasType tys = true)
    (hBad : ∀ ty ∈ tys, ty ∉ bad) : o.hasType bad = false := by
  cases o with
  | null => rfl
  | reg g j ty m => simpa [Operand.hasType] using hBad ty (by simpa [Operand.hasType] using h)

theorem accTypes_supported (k : Kind) : ∀ ty ∈ accTypes k, ty ∉ [OpType.bf, .hf, .df] := by
  cases k <;> simp [accTypes]

theorem operandsOk_iff {k : Kind} {t : Dpas} :
    nullOk t = true ∧ modifierOk t = true ∧ typesSupportedOk t = true ∧ typesOk k t = true ↔ LegalOperands k t := by
  simp only [nullOk, modifierOk, typesSupportedOk, typesOk, Form.hasUnsupportedType, LegalOperands, plainOperand_iff,
    Bool.and_eq_true, Bool.or_eq_true, Bool.not_eq_true', Bool.or_eq_false_iff, bne_iff_ne, beq_iff_eq]
  constructor
  · rintro ⟨-, ⟨⟨⟨mD, m0⟩, m1⟩, m2⟩, -, ⟨⟨hD, h0⟩, h1⟩, h2⟩
    exact ⟨⟨hD, mD⟩, h0.imp_right fun h => ⟨h, m0⟩, ⟨h1, m1⟩, ⟨h2, m2⟩⟩
  · rintro ⟨⟨hD, mD⟩, h0, ⟨h1, m1⟩, ⟨h2, m2⟩⟩
    have m0 : operandModified t.src0 = false := h0.elim (fun h => by rw [h]; rfl) And.right
    have u0 : t.src0.hasType [.bf, .hf, .df] = false :=
      h0.elim (fun h => by rw [h]; rfl) fun h => hasType_unsupported_of_hasType h.1 (accTypes_supported k)
    exact ⟨⟨⟨ne_null_of_hasType hD, ne_null_of_hasType h1⟩, ne_null_of_hasType h2⟩, ⟨⟨⟨mD, m0⟩, m1⟩, m2⟩,
      ⟨⟨⟨hasType_unsupported_of_hasType hD (accTypes_supported k), u0⟩, hasType_unsupported_of_hasType h1 (by decide)⟩,
        hasType_unsupported_of_hasType h2 (by decide)⟩,
      ⟨⟨hD, h0.imp_right And.left⟩, h1⟩, h2⟩

theorem grfAligned_iff (p : Params) (o : Operand) : grfAligned p o = true ↔ operandFlat p o % grfDw p.platform = 0 := by
  simp [grfAligned]

theorem grfAligned_iff_or_null (p : Params) (o : Operand) :
    grfAligned p o = true ↔ o = .null ∨ operandFlat p o % grfDw p.platform = 0 := by
  cases o <;> simp [grfAligned, operandFlat]

theorem alignOk_iff {p : Params} {k : Kind} {t : Dpas} (hsd : t.sd = 8) :
    alignOk p k t = true ↔ LegalAlignment p k t := by
  have hDepth : t.sd.toNat = 8 := by rw [hsd]; rfl
  simp only [alignOk, LegalAlignment, Bool.and_eq_true, beq_iff_eq, hDepth, grfAligned_iff p t.dst,
    grfAligned_iff p t.src1, grfAligned_iff_or_null p t.src0, and_assoc]

theorem rangeOk_iff {p : Params} {k : Kind} {t : Dpas} (hsd : t.sd = 8) :
    rangeOk p k t = true ↔ LegalRange p k t := by
  have hDepth : t.sd.toNat = 8 := by rw [hsd]; rfl
  simp only [rangeOk, LegalRange, Bool.and_eq_true, Bool.or_eq_true, beq_iff_eq, decide_eq_true_eq, hDepth, and_assoc]

theorem spansDisjoint_iff {x y : Span} :
    spansDisjoint x y = true ↔ x.start + x.len ≤ y.start ∨ y.start + y.len ≤ x.start := by
  simp [spansDisjoint]

/-- Whole GRFs are apart as spans of dwords when they are apart as GRF numbers. -/
theorem grfSpan_disjoint_iff {p : Params} {o o' : Operand} {n n' : Nat} :
    spansDisjoint (grfSpan p o n) (grfSpan p o' n') = true ↔
      operandGrf p o + n ≤ operandGrf p o' ∨ operandGrf p o' + n' ≤ operandGrf p o := by
  simp only [spansDisjoint_iff, grfSpan, ← Nat.add_mul, Nat.mul_le_mul_right_iff (grfDw_pos _)]

theorem grfSpan_inj {p : Params} {o o' : Operand} {n : Nat} :
    grfSpan p o n = grfSpan p o' n ↔ operandGrf p o = operandGrf p o' := by
  simp only [grfSpan, Span.mk.injEq, and_true, Nat.mul_left_inj (grfDw_pos _).ne']

theorem overlapOk_iff {p : Params} {k : Kind} {t : Dpas} (hsd : t.sd = 8) :
    overlapOk p k t = true ↔ LegalOverlap p k t := by
  have hDepth : t.sd.toNat = 8 := by rw [hsd]; rfl
  have hSrc2 : spansDisjoint (grfSpan p t.dst t.rc.toNat) (src2Span p k t) = true ↔
      (operandGrf p t.dst + t.rc.toNat) * grfDw p.platform ≤ operandFlat p t.src2 ∨
        operandFlat p t.src2 + t.rc.toNat * kindAlign2 k 8 ≤ operandGrf p t.dst * grfDw p.platform := by
    simp only [spansDisjoint_iff, src2Span, grfSpan, hDepth, Nat.add_mul]
  simp only [overlapOk, LegalOverlap, Bool.and_eq_true, Bool.or_eq_true, beq_iff_eq, hSrc2, dstSpan, src0Span, src1Span,
    grfSpan_disjoint_iff, grfSpan_inj, hDepth, and_assoc, or_assoc]

theorem platformOk_iff {p : Params} {t : Dpas} : platformOk p t = true ↔ t ∉ p.platformRefuses := by
  simp [platformOk]

/-- A term with a kind has passed the checks of its precisions. -/
theorem precisionChecks_of_kind {t : Dpas} {k : Kind} (h : dpasKind t = some k) :
    precisionRowsOk t = true ∧ precisionsSupportedOk t = true := by
  obtain ⟨hw, ha⟩ := dpasKind_eq_some.mp h
  simp only [precisionRowsOk, precisionsSupportedOk, hw, ha]
  cases k with
  | int w a => cases w <;> cases a <;> exact ⟨rfl, rfl⟩
  | bf => exact ⟨rfl, rfl⟩
  | hf => exact ⟨rfl, rfl⟩

/-- Checks 5 to 15 in three groups: the depth and the count, the operands, and the places. -/
theorem kindChecks_pass_iff {p : Params} {k : Kind} {t : Dpas} :
    (∀ c ∈ kindChecks p k t, c.1 = true) ↔
      ((depthByteOk t = true ∧ depthSupportedOk t = true) ∧ repeatOk p t = true) ∧
      (nullOk t = true ∧ modifierOk t = true ∧ typesSupportedOk t = true ∧ typesOk k t = true) ∧
      alignOk p k t = true ∧ rangeOk p k t = true ∧ overlapOk p k t = true ∧ platformOk p t = true := by
  simp only [kindChecks, List.forall_mem_cons, List.not_mem_nil, false_implies, implies_true, and_true, and_assoc]

theorem depthOk_iff {t : Dpas} : depthByteOk t = true ∧ depthSupportedOk t = true ↔ t.sd = 8 := by
  simp only [depthByteOk, depthSupportedOk, Bool.or_eq_true, beq_iff_eq]
  exact ⟨And.right, fun h => ⟨.inr h, h⟩⟩

/-- The verdict admits what is legal (R117). -/
theorem judge_eq_ok_iff_legal {p : Params} {t : Dpas} {k : Kind} : judge p t = .ok k ↔ Legal p k t := by
  rw [judge_eq_ok, kindChecks_pass_iff, operandsOk_iff, execSizeOk_iff, repeatOk_iff, platformOk_iff, depthOk_iff]
  constructor
  · rintro ⟨⟨hSize, hBit⟩, -, -, hk, ⟨hsd, hRc, hMax⟩, hOperands, hAlign, hRange, hOverlap, hPlatform⟩
    obtain ⟨hw, ha⟩ := dpasKind_eq_some.mp hk
    exact ⟨⟨hSize, hBit, hw, ha, hsd, hRc, hMax⟩, hOperands, (alignOk_iff hsd).mp hAlign, (rangeOk_iff hsd).mp hRange,
      (overlapOk_iff hsd).mp hOverlap, hPlatform⟩
  · rintro ⟨⟨hSize, hBit, hw, ha, hsd, hRc, hMax⟩, hOperands, hAlign, hRange, hOverlap, hPlatform⟩
    have hk : dpasKind t = some k := dpasKind_eq_some.mpr ⟨hw, ha⟩
    obtain ⟨hRows, hSupported⟩ := precisionChecks_of_kind hk
    exact ⟨⟨hSize, hBit⟩, hRows, hSupported, hk, ⟨hsd, hRc, hMax⟩, hOperands, (alignOk_iff hsd).mpr hAlign,
      (rangeOk_iff hsd).mpr hRange, (overlapOk_iff hsd).mpr hOverlap, hPlatform⟩

/-- Settles O40: `judge_eq_ok_iff_legal`, which goes through the checks one group at a time. -/
theorem verdictAdmitsExactlyTheLegal : Obligations.VerdictAdmitsExactlyTheLegal :=
  fun _ _ _ => judge_eq_ok_iff_legal

/-! A check that fails gives a reason that applies. -/

/-- The first failing check of a list is its head, or the head passes and it is that of the tail. -/
theorem firstFailing_cons_elim {P : Refusal → Prop} {b : Bool} {r : Refusal} {cs : List (Bool × Refusal)}
    (hFail : b = false → P r) (hPass : b = true → ∀ r', firstFailing cs = some r' → P r') :
    ∀ r', firstFailing ((b, r) :: cs) = some r' → P r' := by
  intro r' h
  cases b with
  | false =>
    obtain rfl : r = r' := by simpa [firstFailing] using h
    exact hFail rfl
  | true => exact hPass rfl r' (by simpa [firstFailing] using h)

/-- An operand of one of the types, written out as the reasons of R181 have it. -/
theorem hasType_iff {tys : List OpType} {o : Operand} :
    o.hasType tys = true ↔ ∃ g j ty m, o = .reg g j ty m ∧ ty ∈ tys := by
  cases o <;> simp [Operand.hasType]

theorem exists_type_of_hasType_false {tys : List OpType} {o : Operand} (hNull : o ≠ .null)
    (h : o.hasType tys = false) : ∃ g j ty m, o = .reg g j ty m ∧ ty ∉ tys := by
  cases o with
  | null => exact absurd rfl hNull
  | reg g j ty m => exact ⟨g, j, ty, m, rfl, by simpa [Operand.hasType] using h⟩

theorem operandModified_iff {o : Operand} : operandModified o = true ↔ ∃ g j ty, o = .reg g j ty true := by
  cases o <;> simp [operandModified]

theorem execSize_reason {p : Params} {t : Dpas} (h : execSizeOk p t = false) : ReasonApplies p t .badExecSize := by
  rw [← Bool.not_eq_true, execSizeOk_iff, not_and_or] at h
  exact h.imp_right fun hBit => by bv_omega

theorem precisionRows_reason {p : Params} {t : Dpas} (h : precisionRowsOk t = false) : ReasonApplies p t .badPrecision := by
  simp only [precisionRowsOk, Bool.and_eq_false_iff, Option.isSome_eq_false_iff, Option.isNone_iff_eq_none] at h
  exact h

theorem byte_of_unsupported (b : Byte) :
    precisionSupported (precisionOfByte b) = false → b = 1 ∨ b = 2 ∨ b = 0x0C := by
  revert b
  decide

theorem precisionsSupported_reason {p : Params} {t : Dpas} (h : precisionsSupportedOk t = false) :
    ReasonApplies p t .unsupportedPrecision := by
  rw [precisionsSupportedOk, Bool.and_eq_false_iff] at h
  have := h.imp (byte_of_unsupported t.w) (byte_of_unsupported t.a)
  simpa only [ReasonApplies, or_assoc] using this

theorem depthByte_reason {p : Params} {t : Dpas} (h : depthByteOk t = false) : ReasonApplies p t .badDepth := by
  simpa [depthByteOk, depthIsShallow, ReasonApplies, and_assoc] using h

theorem depthSupported_reason {p : Params} {t : Dpas} (hByte : depthByteOk t = true) (h : depthSupportedOk t = false) :
    ReasonApplies p t .unsupportedDepth := by
  rw [depthByteOk, show (t.sd == 8) = false from h] at hByte
  simpa [depthIsShallow, ReasonApplies, or_assoc] using hByte

theorem repeat_reason {p : Params} {t : Dpas} (h : repeatOk p t = false) : ReasonApplies p t .badRepeatCount := by
  rw [← Bool.not_eq_true, repeatOk_iff, not_and_or] at h
  exact h.imp (fun h => by bv_omega) Nat.lt_of_not_le

theorem null_reason {p : Params} {t : Dpas} (h : nullOk t = false) : ReasonApplies p t .nullOperand := by
  simp only [nullOk, Bool.and_eq_false_iff, bne_eq_false_iff_eq, or_assoc] at h
  exact h

theorem modifier_reason {p : Params} {t : Dpas} (h : modifierOk t = false) : ReasonApplies p t .sourceModifier := by
  simp only [modifierOk, Bool.not_eq_false', Bool.or_eq_true, operandModified_iff] at h
  rcases h with ((hDst | h0) | h1) | h2
  · exact ⟨t.dst, by simp, hDst⟩
  · exact ⟨t.src0, by simp, h0⟩
  · exact ⟨t.src1, by simp, h1⟩
  · exact ⟨t.src2, by simp, h2⟩

theorem unsupportedType_reason {p : Params} {t : Dpas} (h : t.toForm.hasUnsupportedType = true) :
    ReasonApplies p t .unsupportedType := by
  simp only [Form.hasUnsupportedType, Bool.or_eq_true, hasType_iff] at h
  rcases h with ((hDst | h0) | ⟨g, j, ty, m, h1, hty⟩) | ⟨g, j, ty, m, h2, hty⟩
  · exact .inl ⟨t.dst, by simp, hDst⟩
  · exact .inl ⟨t.src0, by simp, h0⟩
  · obtain rfl := List.mem_singleton.mp hty
    exact .inr ⟨t.src1, by simp, g, j, m, h1⟩
  · obtain rfl := List.mem_singleton.mp hty
    exact .inr ⟨t.src2, by simp, g, j, m, h2⟩

theorem types_reason {p : Params} {k : Kind} {t : Dpas} (hk : dpasKind t = some k) (hNull : nullOk t = true)
    (h : typesOk k t = false) : ReasonApplies p t .typeCombination := by
  obtain ⟨hw, ha⟩ := dpasKind_eq_some.mp hk
  simp only [nullOk, Bool.and_eq_true, bne_iff_ne] at hNull
  obtain ⟨⟨hDst, hSrc1⟩, hSrc2⟩ := hNull
  simp only [typesOk, Bool.and_eq_false_iff, Bool.or_eq_false_iff, beq_eq_false_iff_ne] at h
  refine ⟨k, hw, ha, ?_⟩
  rcases h with ((hD | ⟨hSrc0, h0⟩) | h1) | h2
  · exact .inl ⟨t.dst, by simp, exists_type_of_hasType_false hDst hD⟩
  · exact .inl ⟨t.src0, by simp, exists_type_of_hasType_false hSrc0 h0⟩
  · exact .inr ⟨t.src1, by simp, exists_type_of_hasType_false hSrc1 h1⟩
  · exact .inr ⟨t.src2, by simp, exists_type_of_hasType_false hSrc2 h2⟩

/-- The reason of the first of checks 5 to 15 that fails applies; those before it have passed. -/
theorem kindCheck_reason {p : Params} {k : Kind} {t : Dpas} (hk : dpasKind t = some k) :
    ∀ r, firstFailing (kindChecks p k t) = some r → ReasonApplies p t r := by
  obtain ⟨hw, ha⟩ := dpasKind_eq_some.mp hk
  refine firstFailing_cons_elim depthByte_reason fun hByte => ?_
  refine firstFailing_cons_elim (depthSupported_reason hByte) fun hDepth => ?_
  have hsd : t.sd = 8 := depthOk_iff.mp ⟨hByte, hDepth⟩
  refine firstFailing_cons_elim repeat_reason fun _ => ?_
  refine firstFailing_cons_elim null_reason fun hNull => ?_
  refine firstFailing_cons_elim modifier_reason fun _ => ?_
  refine firstFailing_cons_elim (fun h => unsupportedType_reason (by simpa [typesSupportedOk] using h)) fun _ => ?_
  refine firstFailing_cons_elim (types_reason hk hNull) fun _ => ?_
  refine firstFailing_cons_elim (fun h => ⟨k, hw, ha, by rw [← alignOk_iff hsd, h]; decide⟩) fun _ => ?_
  refine firstFailing_cons_elim (fun h => ⟨k, hw, ha, by rw [← rangeOk_iff hsd, h]; decide⟩) fun _ => ?_
  refine firstFailing_cons_elim (fun h => ⟨k, hw, ha, by rw [← overlapOk_iff hsd, h]; decide⟩) fun _ => ?_
  refine firstFailing_cons_elim (fun h => ?_) fun _ r hNone => by cases hNone
  exact not_not.mp fun hFree => by rw [platformOk_iff.mpr hFree] at h; cases h

/-- R181: whatever reason the verdict gives applies to the term. -/
theorem judge_error_reason {p : Params} {t : Dpas} {r : Refusal} (h : judge p t = .error r) : ReasonApplies p t r := by
  unfold judge at h
  split at h
  · next hSize =>
    obtain rfl := Except.error.inj h
    exact execSize_reason (by simpa using hSize)
  split at h
  · next hRows =>
    obtain rfl := Except.error.inj h
    exact precisionRows_reason (by simpa using hRows)
  split at h
  · next hSupported =>
    obtain rfl := Except.error.inj h
    exact precisionsSupported_reason (by simpa using hSupported)
  split at h
  · next hk =>
    obtain rfl := Except.error.inj h
    exact dpasKind_eq_none.mp hk
  next k hk =>
  split at h
  · next r' hFail =>
    obtain rfl := Except.error.inj h
    exact kindCheck_reason hk _ hFail
  · cases h

theorem exists_judge_error {p : Params} {t : Dpas} (h : ∀ k, ¬ Legal p k t) : ∃ r, judge p t = .error r := by
  cases hj : judge p t with
  | error r => exact ⟨r, rfl⟩
  | ok k => exact absurd (judge_eq_ok_iff_legal.mp hj) (h k)

theorem runDpas_of_error {t : Dpas} {s : State} {r : Refusal} (h : judge s.params t = .error r) :
    runDpas t s = .refused r := by
  simp only [runDpas, h]

theorem runDpas_refuses {t : Dpas} {s : State} (h : ∀ k, ¬ Legal s.params k t) :
    ∃ r, runDpas t s = .refused r ∧ ReasonApplies s.params t r := by
  obtain ⟨r, hr⟩ := exists_judge_error h
  exact ⟨r, runDpas_of_error hr, judge_error_reason hr⟩

theorem stopDpas_of_error {t : Dpas} {why r : Refusal} {s : State} (h : judge s.params t = .error r) :
    stopDpas t why s = .refused r := by
  simp only [stopDpas, h]

/-- Settles O41: no kind but its own can make an admitted row's term legal, and the reason is the verdict's. -/
theorem illegalTermsAreRefused : Obligations.IllegalTermsAreRefused := by
  refine ⟨fun t s h => runDpas_refuses h, fun k f s h => ?_⟩
  rw [exec_kindRow]
  refine runDpas_refuses fun k' hLegal => ?_
  obtain rfl : k = k' := by simpa using kind_of_judge_ok (judge_eq_ok_iff_legal.mpr hLegal)
  exact h hLegal

/-! The rows of refused forms: each row's own reason applies, and the verdict refuses. -/

/-- A row of refused forms whose reason applies reports one that applies. -/
theorem stopDpas_reason {t : Dpas} {why : Refusal} {s : State} (h : ReasonApplies s.params t why) :
    ∃ r, stopDpas t why s = .refused r ∧ ReasonApplies s.params t r ∧ ReasonApplies s.params t why := by
  cases hj : judge s.params t with
  | error r => exact ⟨r, stopDpas_of_error hj, judge_error_reason hj, h⟩
  | ok k => exact ⟨why, by simp only [stopDpas, hj], h, h⟩

theorem oneBit_reason {p : Params} {t : Dpas} (h : t.hasOneBit = true) : ReasonApplies p t .unsupportedPrecision := by
  simp only [Dpas.hasOneBit, Bool.or_eq_true, beq_iff_eq] at h
  simp only [ReasonApplies]
  tauto

theorem tf32_reason {p : Params} {t : Dpas} (h : t.isTf32 = true) : ReasonApplies p t .unsupportedPrecision := by
  simp only [Dpas.isTf32, Bool.and_eq_true, beq_iff_eq] at h
  simp only [ReasonApplies, h.1, true_or, or_true]

theorem unusedPrecision_reason {p : Params} {t : Dpas} (h : t.hasUnusedPrecision = true) :
    ReasonApplies p t .badPrecision := by
  simp only [Dpas.hasUnusedPrecision, Bool.or_eq_true, beq_iff_eq] at h
  exact h.imp (fun hw => by rw [hw]; rfl) fun ha => by rw [ha]; rfl

theorem unassignedPrecision_reason {p : Params} {t : Dpas} (h : t.hasUnassignedPrecision = true) :
    ReasonApplies p t .badPrecision := by
  simp only [Dpas.hasUnassignedPrecision, Bool.or_eq_true, Option.isNone_iff_eq_none] at h
  exact h

theorem shallowDepth_reason {p : Params} {t : Dpas} (h : depthIsShallow t.sd = true) :
    ReasonApplies p t .unsupportedDepth := by
  simp only [depthIsShallow, Bool.or_eq_true, beq_iff_eq, or_assoc] at h
  exact h

theorem otherDepth_reason {p : Params} {t : Dpas} (hShallow : depthIsShallow t.sd = false) (hsd : t.sd ≠ 8) :
    ReasonApplies p t .badDepth :=
  depthByte_reason (by simp [depthByteOk, hShallow]; simpa using hsd)

theorem neverLegal_reason {p : Params} {t : Dpas} (h : t.execSize.neverLegal = true) : ReasonApplies p t .badExecSize := by
  simp only [ExecSize.neverLegal, Bool.or_eq_true, beq_iff_eq, Bool.not_eq_true', Bool.or_eq_false_iff,
    beq_eq_false_iff_ne] at h
  refine h.elim .inr fun hCode => .inl ?_
  cases p.platform with
  | xehp => exact hCode.1
  | pvc => exact hCode.2

/-- Settles O42: each precision row holds the condition of its own reason. -/
theorem refusedPrecisionRowsStop : Obligations.RefusedPrecisionRowsStop := by
  refine ⟨fun t s h => ?_, fun f sd s => stopDpas_reason (tf32_reason rfl), fun t s h => ?_, fun t s h => ?_,
    fun t s h => ?_⟩
  all_goals simp only [Instr.wf, Bool.and_eq_true] at h
  · exact stopDpas_reason (oneBit_reason h.2)
  · exact stopDpas_reason (unusedPrecision_reason h.2)
  · exact stopDpas_reason (unassignedPrecision_reason h.2)
  · exact stopDpas_reason (dpasKind_eq_none.mp (Option.isNone_iff_eq_none.mp h.2))

/-- Settles O43: each depth row holds the condition of its own reason. -/
theorem refusedDepthRowsStop : Obligations.RefusedDepthRowsStop := by
  refine ⟨fun t s h => ?_, fun t s h => ?_⟩
  all_goals simp only [Instr.wf, Bool.and_eq_true, Bool.not_eq_true', bne_iff_ne] at h
  · exact stopDpas_reason (shallowDepth_reason h.2)
  · obtain ⟨⟨-, hShallow⟩, hsd⟩ := h
    exact stopDpas_reason (otherDepth_reason hShallow hsd)

/-- Settles O44: each of the three rows holds the condition of its own reason. -/
theorem refusedCountTypeAndSizeRowsStop : Obligations.RefusedCountTypeAndSizeRowsStop := by
  refine ⟨fun t s h => ?_, fun t s h => ?_, fun t s h => ?_⟩
  all_goals simp only [Instr.wf, Bool.and_eq_true, beq_iff_eq] at h
  · exact stopDpas_reason (.inl h.2)
  · exact stopDpas_reason (unsupportedType_reason h.2)
  · exact stopDpas_reason (neverLegal_reason h.2)

/-! The generic row and the row of its term (R78). -/

/-- In every row, a term that the verdict refuses is refused for the verdict's reason. -/
theorem exec_of_error {s : State} {r : Refusal} (i : Instr) (h : judge s.params i.term = .error r) :
    exec i s = .refused r := by
  induction i using byRow with
  | dpas t => exact runDpas_of_error h
  | admitted k f =>
    rw [exec_kindRow]
    exact runDpas_of_error (by simpa using h)
  | _ => exact stopDpas_of_error h

/-- The row of a legal term is the admitted row of its kind. -/
theorem ofTerm_of_legal {p : Params} {k : Kind} {t : Dpas} (h : Legal p k t) : Instr.ofTerm t = kindRow k t.toForm := by
  obtain ⟨⟨hSize, hBit, hw, ha, hsd, hRc, -⟩, hOperands, -⟩ := h
  obtain ⟨-, -, hTypes, -⟩ := operandsOk_iff.mpr hOperands
  refine ofTerm_eq_kindRow ?_ (dpasKind_eq_some.mpr ⟨hw, ha⟩) hsd (fun h0 => by simp [h0] at hRc)
    (by simpa [typesSupportedOk] using hTypes)
  rw [ExecSize.neverLegal, hSize, hBit]
  cases p.platform <;> rfl

/-- Settles O7: a legal term's row is the admitted one, and a term that is not legal is refused alike in every row. -/
theorem genericRowAgreesWithEveryRow : Obligations.GenericRowAgreesWithEveryRow := by
  intro t s
  cases hj : judge s.params t with
  | error r => rw [exec_of_error (.dpas t) hj, exec_of_error (Instr.ofTerm t) (by rwa [term_ofTerm])]
  | ok k =>
    have hLegal : Legal s.params k t := judge_eq_ok_iff_legal.mp hj
    rw [ofTerm_of_legal hLegal, exec_kindRow, admitted_of_codes (kind_of_judge_ok hj) (judge_checks hj).1]
    rfl

/-! A slot whose instruction completes (R77; log 13). -/

/-- Four bytes that resolve to an operand which R117 admits are the operand's own. -/
theorem operandBytes_of_plain {bs : List Byte} {tys : List OpType} (hLength : bs.length = 4) (hDf : .df ∉ tys)
    (h : resolveOperand bs = .null ∨ plainOperand tys (resolveOperand bs) = true) :
    operandBytes (resolveOperand bs) = bs := by
  obtain ⟨tag, dw, lo, hi, rfl⟩ := List.length_eq_four.mp hLength
  refine operandBytes_resolveOperand fun g j ty m hReg => ?_
  rw [hReg] at h
  simp only [plainOperand, reduceCtorEq, Bool.and_eq_true, decide_eq_true_eq, Bool.not_eq_true', false_or] at h
  exact ⟨h.2, fun hTy => hDf (hTy ▸ h.1)⟩

theorem length_of_decodeTerm_ok {L : OperandLayout} {bs : List Byte} {t : Dpas} (h : decodeTerm L bs = .ok t) :
    ∃ rest, bs = 0x83 :: rest ∧ (0x83 :: rest).length = instrBytes L := by
  cases bs with
  | nil => cases h
  | cons op rest =>
    obtain rfl := opcode_of_decodeTerm_ok h
    refine ⟨rest, rfl, ?_⟩
    simp only [decodeTerm, List.head?_cons, ne_eq, not_true_eq_false, if_false] at h
    split_ifs at h
    omega

theorem df_not_mem_accTypes (k : Kind) : .df ∉ accTypes k := by
  cases k <;> simp [accTypes]

/-- Settles O46: the slot is its fields, the four operands are plain because the term is legal, and plain operands are
encoded as the bytes they came from. -/
theorem completingSlotsAreEncodings : Obligations.CompletingSlotsAreEncodings := by
  intro bs i s u hDecode hExec
  obtain ⟨t, hTerm, rfl⟩ : ∃ t, decodeTerm operandLayout bs = .ok t ∧ Instr.ofTerm t = i := by
    cases hTerm : decodeTerm operandLayout bs with
    | error e => rw [decode, hTerm] at hDecode; cases hDecode
    | ok t => exact ⟨t, rfl, Except.ok.inj ((decode_eq_ok hTerm).symm.trans hDecode)⟩
  obtain ⟨k, hj, -⟩ := exec_next_retire hExec
  rw [term_ofTerm] at hj
  obtain ⟨-, ⟨hDst, hSrc0, hSrc1, hSrc2⟩, -⟩ := judge_eq_ok_iff_legal.mp hj
  obtain ⟨rest, rfl, hLength⟩ := length_of_decodeTerm_ok hTerm
  obtain ⟨e, w, a, sd, rc, xD, xC, xB, xA, hD, hC, hB, hA, hBytes⟩ := exists_fields hLength
  rw [hBytes] at hTerm ⊢
  have hFields := decoderCutsTheFieldsInOrder operandLayout e w a sd rc xD xC xB xA hD hC hB hA
  obtain rfl := Except.ok.inj (hFields.symm.trans hTerm)
  rw [encode, term_ofTerm, encodeTerm]
  have hBD := operandBytes_of_plain hD (df_not_mem_accTypes k) (.inr hDst)
  have hBC := operandBytes_of_plain hC (df_not_mem_accTypes k) hSrc0
  have hBB := operandBytes_of_plain hB (by decide) (.inr hSrc1)
  have hBA := operandBytes_of_plain hA (by decide) (.inr hSrc2)
  simp only [operandLayout, hBD, hBC, hBB, hBA, execSizeByte_execSizeOfByte]
  simp

end Sys2Proof.Proofs
end

section
/-! Elements, shapes and masks (R26, R42, R67, R106, R107, R110, R111, R140, R141). -/

namespace Sys2Proof.Proofs

open Machine

/-- The fields of `P` bits below field `n` make up the number mod `2^(n * P)`. -/
theorem sum_fields (P x n : Nat) :
    ∑ e ∈ Finset.range n, (x >>> (e * P)) % 2 ^ P * 2 ^ (e * P) = x % (2 ^ P) ^ n := by
  induction n with
  | zero => simp [Nat.mod_one]
  | succ n ih =>
    rw [Finset.sum_range_succ, ih, Nat.mod_pow_succ, ← pow_mul, Nat.mul_comm P n, Nat.shiftRight_eq_div_pow,
      Nat.mul_comm (2 ^ (n * P))]

/-- Settles O19: the fields of a dword are all its bits where `P` divides 32. -/
theorem elementsMakeUpTheDword : Obligations.ElementsMakeUpTheDword := by
  intro P hP dw
  have hWidth : (2 ^ P) ^ (32 / P) = 2 ^ 32 := by
    rw [← pow_mul]
    revert P
    decide
  calc ∑ e ∈ Finset.range (32 / P), elem P dw e * 2 ^ (e * P) = dw.toNat % (2 ^ P) ^ (32 / P) := sum_fields P dw.toNat _
    _ = dw.toNat := by rw [hWidth, Nat.mod_eq_of_lt dw.isLt]

theorem intVal_unsigned {q : IntPrec} (h : intPrecSigned q = false) (x : Nat) : intVal q x = x := by
  simp [intVal, h]

theorem intPrecBits_pos (q : IntPrec) : 0 < intPrecBits q := by
  cases q <;> decide

theorem two_pow_intPrecBits (q : IntPrec) : (2 : Int) ^ intPrecBits q = 2 * 2 ^ (intPrecBits q - 1) := by
  rw [← pow_succ', Nat.sub_add_cancel (intPrecBits_pos q)]

/-- The sign bit of a raw field of `n + 1` bits is set when the field is in the upper half of its range (R141). -/
theorem testBit_top {n x : Nat} (hx : x < 2 ^ (n + 1)) : x.testBit n = decide (2 ^ n ≤ x) := by
  by_cases h : 2 ^ n ≤ x
  · simpa [h] using Nat.testBit_of_two_pow_le_and_two_pow_add_one_gt h hx
  · simpa [h] using Nat.testBit_lt_two_pow (Nat.lt_of_not_le h)

theorem intVal_signed {q : IntPrec} (h : intPrecSigned q = true) {x : Nat} (hx : x < 2 ^ intPrecBits q) :
    intVal q x = if 2 ^ (intPrecBits q - 1) ≤ x then (x : Int) - 2 ^ intPrecBits q else (x : Int) := by
  have hTop : x.testBit (intPrecBits q - 1) = decide (2 ^ (intPrecBits q - 1) ≤ x) :=
    testBit_top (by rwa [Nat.sub_add_cancel (intPrecBits_pos q)])
  simp only [intVal, h, hTop, Bool.true_and, decide_eq_true_eq]

/-- Settles O20: an unsigned field is its value, and a signed one in the upper half is taken `2^P` lower. -/
theorem elementValuesFillTheirRange : Obligations.ElementValuesFillTheirRange := by
  intro q x hx
  have hMod : (x : Int) % 2 ^ intPrecBits q = x := by exact_mod_cast Nat.mod_eq_of_lt hx
  have hLt : (x : Int) < 2 ^ intPrecBits q := by exact_mod_cast hx
  cases hs : intPrecSigned q with
  | false =>
    rw [intVal_unsigned hs]
    exact ⟨hMod, nofun, fun _ => ⟨by omega, hLt⟩⟩
  | true =>
    have hTwo := two_pow_intPrecBits q
    rw [intVal_signed hs hx]
    split
    · next hHigh =>
      have hHigh : (2 : Int) ^ (intPrecBits q - 1) ≤ x := by exact_mod_cast hHigh
      exact ⟨by rw [Int.sub_emod_right, hMod], fun _ => ⟨by omega, by omega⟩, nofun⟩
    · next hLow =>
      have hLow : (x : Int) < 2 ^ (intPrecBits q - 1) := by exact_mod_cast Nat.lt_of_not_le hLow
      exact ⟨hMod, fun _ => ⟨by omega, hLow⟩, nofun⟩

theorem abs_intVal_le {q : IntPrec} {x : Nat} (hx : x < 2 ^ intPrecBits q) : |intVal q x| ≤ 2 ^ intPrecBits q - 1 := by
  obtain ⟨-, hSigned, hUnsigned⟩ := elementValuesFillTheirRange q x hx
  have hTwo := two_pow_intPrecBits q
  have hHalf : (0 : Int) < 2 ^ (intPrecBits q - 1) := by positivity
  rw [abs_le]
  cases hs : intPrecSigned q with
  | false =>
    obtain ⟨hLow, hHigh⟩ := hUnsigned hs
    omega
  | true =>
    obtain ⟨hLow, hHigh⟩ := hSigned hs
    omega

theorem elem_lt (P : Nat) (dw : Word) (e : Nat) : elem P dw e < 2 ^ P :=
  Nat.mod_lt _ (Nat.two_pow_pos P)

theorem matA_lt (p : Params) (w a : IntPrec) (t : Dpas) (rf : RegFile) (r kk : Nat) :
    matA p (.int w a) t rf r kk < 2 ^ intPrecBits a :=
  elem_lt _ _ _

theorem matB_lt (p : Params) (w a : IntPrec) (t : Dpas) (rf : RegFile) (kk i : Nat) :
    matB p (.int w a) t rf kk i < 2 ^ intPrecBits w :=
  elem_lt _ _ _

/-- Every product of a row is bounded by the widths of its factors, so the row is by their number times that. -/
theorem abs_rowSum_le (p : Params) (w a : IntPrec) (t : Dpas) (rf : RegFile) (r i : Nat) :
    |rowSum p w a t rf r i| ≤
      (8 * kindOps (.int w a) : Nat) * ((2 ^ intPrecBits a - 1) * (2 ^ intPrecBits w - 1) : Int) := by
  have hProduct : ∀ kk ∈ Finset.range (8 * kindOps (.int w a)),
      |intVal a (matA p (.int w a) t rf r kk) * intVal w (matB p (.int w a) t rf kk i)| ≤
        ((2 ^ intPrecBits a - 1) * (2 ^ intPrecBits w - 1) : Int) := by
    intro kk _
    rw [abs_mul]
    exact mul_le_mul (abs_intVal_le (matA_lt ..)) (abs_intVal_le (matB_lt ..)) (abs_nonneg _)
      ((abs_nonneg _).trans (abs_intVal_le (matA_lt p w a t rf r kk)))
  calc |rowSum p w a t rf r i| ≤ _ := Finset.abs_sum_le_sum_abs _ _
    _ ≤ _ := Finset.sum_le_card_nsmul _ _ _ hProduct
    _ = _ := by rw [Finset.card_range, nsmul_eq_mul]

theorem s8_product_bounds {x y : Nat} (hx : x < 2 ^ intPrecBits .s8) (hy : y < 2 ^ intPrecBits .s8) :
    -16256 ≤ intVal .s8 x * intVal .s8 y ∧ intVal .s8 x * intVal .s8 y ≤ 16384 := by
  obtain ⟨-, hSignedX, -⟩ := elementValuesFillTheirRange .s8 x hx
  obtain ⟨-, hSignedY, -⟩ := elementValuesFillTheirRange .s8 y hy
  obtain ⟨hLowX, hHighX⟩ : -128 ≤ intVal .s8 x ∧ intVal .s8 x < 128 := hSignedX rfl
  obtain ⟨hLowY, hHighY⟩ : -128 ≤ intVal .s8 y ∧ intVal .s8 y < 128 := hSignedY rfl
  constructor <;> nlinarith

/-- Settles O21: the bound of `abs_rowSum_le` for each pair, and the sharper range of an s8 product summed 32 times. -/
theorem rowSumsAreSmall : Obligations.RowSumsAreSmall := by
  intro p w a t rf r i
  have hSum := abs_rowSum_le p w a t rf r i
  refine ⟨hSum.trans ?_, fun hOps => hSum.trans ?_, ?_⟩
  · cases w <;> cases a <;> decide
  · revert hOps
    cases w <;> cases a <;> decide
  · rintro rfl rfl
    have hProduct := fun kk => s8_product_bounds (matA_lt p .s8 .s8 t rf r kk) (matB_lt p .s8 .s8 t rf kk i)
    have hCount : (Finset.range (8 * kindOps (.int .s8 .s8))).card = 32 := rfl
    have hLow := Finset.card_nsmul_le_sum _ _ _ fun kk (_ : kk ∈ Finset.range (8 * kindOps (.int .s8 .s8))) =>
      (hProduct kk).1
    have hHigh := Finset.sum_le_card_nsmul _ _ _ fun kk (_ : kk ∈ Finset.range (8 * kindOps (.int .s8 .s8))) =>
      (hProduct kk).2
    rw [hCount, nsmul_eq_mul] at hLow hHigh
    exact ⟨hLow, hHigh⟩

/-- Settles O18: the three columns of each pair, read off the definitions. -/
theorem shapesOfEveryKind : Obligations.ShapesOfEveryKind := by
  refine ⟨fun k => ?_, fun w a => ?_, rfl, rfl⟩
  · cases k with
    | int w a => cases w <;> cases a <;> decide
    | bf => decide
    | hf => decide
  · cases w <;> cases a <;> rfl

/-- Settles O22: each stage computed on its literal operands. -/
theorem integerStageExamples : Obligations.IntegerStageExamples := by
  unfold Obligations.IntegerStageExamples
  decide

/-- R26: a code below 8 asks its row of `ChEn` alone. -/
theorem channelEnabled_of_lt {p : Params} {code : BitVec 4} (h : code.toNat < 8) (i : Nat) :
    channelEnabled p code i = (maskRow p.chEn code).getLsbD i := by
  simp [channelEnabled, maskIsNm, h]

theorem channelEnabled_of_nm {p : Params} {code : BitVec 4} (h : 8 ≤ code.toNat) (i : Nat) :
    channelEnabled p code i = true := by
  simp [channelEnabled, maskIsNm, h]

/-- Settles O33: codes from 8 on by `channelEnabled_of_nm`, the eight below by their row. -/
theorem maskCodesEnableTheirChannels : Obligations.MaskCodesEnableTheirChannels :=
  fun _ i => ⟨fun _ h => channelEnabled_of_nm h i, channelEnabled_of_lt (by decide) i, channelEnabled_of_lt (by decide) i,
    channelEnabled_of_lt (by decide) i, channelEnabled_of_lt (by decide) i, channelEnabled_of_lt (by decide) i,
    channelEnabled_of_lt (by decide) i, channelEnabled_of_lt (by decide) i, channelEnabled_of_lt (by decide) i⟩

end Sys2Proof.Proofs
end

section
/-! Which dwords a DPAS reads and writes (R111, R113 to R116), and what its result depends on (R23, R45). -/

namespace Sys2Proof.Proofs

open Machine

/-! The dwords of a footprint. -/

theorem mem_grfSpan {p : Params} {o : Operand} {n x : Nat} :
    x ∈ spanCells (grfSpan p o n) ↔ ∃ g < n, ∃ j < grfDw p.platform, x = flatIndex p (operandGrf p o + g) j := by
  simp only [spanCells, List.mem_range'_1, grfSpan, flatIndex, Nat.add_mul]
  constructor
  · rintro ⟨hLow, hHigh⟩
    refine ⟨(x - operandGrf p o * grfDw p.platform) / grfDw p.platform, (Nat.div_lt_iff_lt_mul (grfDw_pos _)).mpr (by omega),
      (x - operandGrf p o * grfDw p.platform) % grfDw p.platform, Nat.mod_lt _ (grfDw_pos _), ?_⟩
    have := Nat.div_add_mod' (x - operandGrf p o * grfDw p.platform) (grfDw p.platform)
    omega
  · rintro ⟨g, hg, j, hj, rfl⟩
    have := flat_lt hg hj
    omega

theorem mem_src2Span {p : Params} {k : Kind} {t : Dpas} (hsd : t.sd = 8) {x : Nat} :
    x ∈ spanCells (src2Span p k t) ↔ ∃ y < t.rc.toNat * kindAlign2 k 8, x = operandFlat p t.src2 + y := by
  have hDepth : t.sd.toNat = 8 := by rw [hsd]; rfl
  simp only [spanCells, List.mem_range'_1, src2Span, hDepth]
  constructor
  · rintro ⟨hLow, hHigh⟩
    exact ⟨x - operandFlat p t.src2, by omega, by omega⟩
  · rintro ⟨y, hy, rfl⟩
    omega

theorem mem_readCells {p : Params} {k : Kind} {t : Dpas} {x : Nat} :
    x ∈ readCells p k t ↔ (t.src0 ≠ .null ∧ x ∈ spanCells (src0Span p t)) ∨ x ∈ spanCells (src1Span p k t) ∨
      x ∈ spanCells (src2Span p k t) := by
  unfold readCells
  split
  · next h => simp [h]
  · next h => simp [h]

/-- R126: the check on the sources asks for a value in every dword of their footprints. -/
theorem sourcesWritten_iff {p : Params} {k : Kind} {t : Dpas} (hsd : t.sd = 8) {rf : RegFile} :
    sourcesWritten p k t rf = true ↔ SourcesHeld p k t rf := by
  have hDepth : t.sd.toNat = 8 := by rw [hsd]; rfl
  have hWritten : ∀ v : Dw, v.isWritten = true ↔ v ≠ .unwritten := by
    intro v
    cases v <;> simp [Dw.isWritten]
  simp only [sourcesWritten, List.all_eq_true, mem_readCells, hWritten, SourcesHeld]
  constructor
  · intro h
    refine ⟨or_iff_not_imp_left.mpr fun hNull r hr j hj => ?_, fun g hg j hj => ?_, fun y hy => ?_⟩
    · exact h _ (.inl ⟨hNull, mem_grfSpan.mpr ⟨r, hr, j, hj, rfl⟩⟩)
    · exact h _ (.inr (.inl (mem_grfSpan.mpr ⟨g, by rwa [hDepth], j, hj, rfl⟩)))
    · exact h _ (.inr (.inr ((mem_src2Span hsd).mpr ⟨y, hy, rfl⟩)))
  · rintro ⟨h0, h1, h2⟩ x (⟨hNull, hx⟩ | hx | hx)
    · obtain ⟨r, hr, j, hj, rfl⟩ := mem_grfSpan.mp hx
      exact (h0.resolve_left hNull) r hr j hj
    · obtain ⟨g, hg, j, hj, rfl⟩ := mem_grfSpan.mp hx
      exact h1 g (by rwa [hDepth] at hg) j hj
    · obtain ⟨y, hy, rfl⟩ := (mem_src2Span hsd).mp hx
      exact h2 y hy

/-! The dword an element of a matrix stands in belongs to the footprint of its operand. -/

/-- The dwords of a row of A hold its `K` elements, and so do the dwords of one channel of `Src1` (R111). -/
theorem footprint_elements (k : Kind) :
    kindAlign2 k 8 * (32 / kindP2 k) = 8 * kindOps k ∧ kindG1 k 8 * (32 / kindP1 k) = kindK k 8 := by
  cases k with
  | int w a => cases w <;> cases a <;> decide
  | bf => decide
  | hf => decide

theorem matC_congr {p : Params} {t : Dpas} {rf rf' : RegFile} {r i : Nat}
    (h : t.src0 ≠ .null → RegFile.read rf' (flatIndex p (operandGrf p t.src0 + r) i) =
      RegFile.read rf (flatIndex p (operandGrf p t.src0 + r) i)) : matC p t rf' r i = matC p t rf r i := by
  rw [← accIn_eq_matC, ← accIn_eq_matC]
  unfold accIn
  split
  · rfl
  · next hNull => exact congrArg Dw.word (h hNull)

theorem matB_congr {p : Params} {k : Kind} {t : Dpas} {rf rf' : RegFile} {kk i : Nat} (hsd : t.sd = 8)
    (h : ∀ x ∈ spanCells (src1Span p k t), RegFile.read rf' x = RegFile.read rf x) (hkk : kk < kindK k 8)
    (hi : i < grfDw p.platform) : matB p k t rf' kk i = matB p k t rf kk i := by
  have hDepth : t.sd.toNat = 8 := by rw [hsd]; rfl
  have hGrf : kk / (32 / kindP1 k) < kindG1 k t.sd.toNat := by
    rw [hDepth]
    exact Nat.div_lt_of_lt_mul (by rwa [Nat.mul_comm, (footprint_elements k).2])
  unfold matB
  rw [h _ (mem_grfSpan.mpr ⟨_, hGrf, i, hi, rfl⟩)]

theorem matA_congr {p : Params} {k : Kind} {t : Dpas} {rf rf' : RegFile} {r kk : Nat} (hsd : t.sd = 8)
    (h : ∀ x ∈ spanCells (src2Span p k t), RegFile.read rf' x = RegFile.read rf x) (hr : r < t.rc.toNat)
    (hkk : kk < kindK k 8) : matA p k t rf' r kk = matA p k t rf r kk := by
  have hDw : (r * (8 * kindOps k) + kk) / (32 / kindP2 k) < t.rc.toNat * kindAlign2 k 8 := by
    refine Nat.div_lt_of_lt_mul ?_
    calc r * (8 * kindOps k) + kk < t.rc.toNat * (8 * kindOps k) := flat_lt hr hkk
      _ = 32 / kindP2 k * (t.rc.toNat * kindAlign2 k 8) := by rw [← (footprint_elements k).1]; ring
  simp only [matA, h _ ((mem_src2Span hsd).mpr ⟨_, hDw, rfl⟩)]

/-- One element of D is a function of its element of C, its row of A and its column of B, whichever term of the kind and
whichever register file they come from. -/
theorem resultAt_congr_matrices {p : Params} {k : Kind} {t t' : Dpas} {rf rf' : RegFile} {r i : Nat} (hsd : t.sd = 8)
    (hsd' : t'.sd = 8) (hC : matC p t' rf' r i = matC p t rf r i)
    (hA : ∀ kk < kindK k 8, matA p k t' rf' r kk = matA p k t rf r kk)
    (hB : ∀ kk < kindK k 8, matB p k t' rf' kk i = matB p k t rf kk i) :
    resultAt p k t' rf' r i = resultAt p k t rf r i := by
  unfold resultAt accAfter
  rw [accIn_eq_matC, accIn_eq_matC, hC, hsd, hsd']
  refine List.foldl_ext _ _ _ fun acc d hd => ?_
  have hd : d < 8 := List.mem_range.mp hd
  have hStageA : stageA p k t' rf' r d = stageA p k t rf r d := by
    rw [stageA_eq_matA hsd, stageA_eq_matA hsd']
    exact List.map_congr_left fun j hj => hA _ (stageElement_lt_kindK hd (List.mem_range.mp hj))
  have hStageB : stageB p k t' rf' d i = stageB p k t rf d i := by
    rw [stageB_eq_matB, stageB_eq_matB]
    exact List.map_congr_left fun j hj => hB _ (stageElement_lt_kindK hd (List.mem_range.mp hj))
  rw [hStageA, hStageB]

theorem resultAt_congr_sources {p : Params} {k : Kind} {t : Dpas} {rf rf' : RegFile} {r i : Nat} (hsd : t.sd = 8)
    (h : ∀ x ∈ readCells p k t, RegFile.read rf' x = RegFile.read rf x) (hr : r < t.rc.toNat)
    (hi : i < grfDw p.platform) : resultAt p k t rf' r i = resultAt p k t rf r i :=
  resultAt_congr_matrices hsd hsd
    (matC_congr fun hNull => h _ (mem_readCells.mpr (.inl ⟨hNull, mem_grfSpan.mpr ⟨r, hr, i, hi, rfl⟩⟩)))
    (fun _ hkk => matA_congr hsd (fun x hx => h x (mem_readCells.mpr (.inr (.inr hx)))) hr hkk)
    (fun _ hkk => matB_congr hsd (fun x hx => h x (mem_readCells.mpr (.inr (.inl hx)))) hkk hi)

/-! What is written, and that no source but an identical `Src0` is (R113). -/

theorem read_of_not_writesDw {p : Params} {k : Kind} {t : Dpas} {rf : RegFile} {x : Nat} (h : ¬ WritesDw p t x) :
    RegFile.read (RegFile.writeAll rf (newCells p k t rf)) x = RegFile.read rf x :=
  read_newCells_other fun r hr i hi he hx => h ⟨r, hr, i, hi, he, hx⟩

theorem mem_dstSpan_of_writesDw {p : Params} {t : Dpas} {x : Nat} (h : WritesDw p t x) : x ∈ spanCells (dstSpan p t) := by
  obtain ⟨r, hr, i, hi, -, rfl⟩ := h
  exact mem_grfSpan.mpr ⟨r, hr, i, hi, rfl⟩

theorem not_mem_of_spansDisjoint {x y : Span} (h : spansDisjoint x y = true) {c : Nat} (hx : c ∈ spanCells x) :
    c ∉ spanCells y := by
  simp only [spansDisjoint_iff, spanCells, List.mem_range'_1] at h hx ⊢
  omega

theorem src1_not_written {p : Params} {k : Kind} {t : Dpas} (h : overlapOk p k t = true) {x : Nat}
    (hx : x ∈ spanCells (src1Span p k t)) : ¬ WritesDw p t x := by
  simp only [overlapOk, Bool.and_eq_true] at h
  exact fun hw => not_mem_of_spansDisjoint h.1.1 (mem_dstSpan_of_writesDw hw) hx

theorem src2_not_written {p : Params} {k : Kind} {t : Dpas} (h : overlapOk p k t = true) {x : Nat}
    (hx : x ∈ spanCells (src2Span p k t)) : ¬ WritesDw p t x := by
  simp only [overlapOk, Bool.and_eq_true] at h
  exact fun hw => not_mem_of_spansDisjoint h.1.2 (mem_dstSpan_of_writesDw hw) hx

theorem src0_not_written {p : Params} {k : Kind} {t : Dpas} (h : overlapOk p k t = true) (hNull : t.src0 ≠ .null)
    (hApart : operandGrf p t.src0 ≠ operandGrf p t.dst) {x : Nat} (hx : x ∈ spanCells (src0Span p t)) :
    ¬ WritesDw p t x := by
  simp only [overlapOk, Bool.and_eq_true, Bool.or_eq_true, beq_iff_eq] at h
  have hDisjoint : spansDisjoint (dstSpan p t) (src0Span p t) = true :=
    h.2.resolve_left (not_or.mpr ⟨hNull, fun hSame => hApart (grfSpan_inj.mp hSame)⟩)
  exact fun hw => not_mem_of_spansDisjoint hDisjoint (mem_dstSpan_of_writesDw hw) hx

/-- Settles O32: what retires is `newCells`, and `newCells` names the enabled dwords of `Dst` only. -/
theorem dpasChangesOnlyItsDestination : Obligations.DpasChangesOnlyItsDestination := by
  intro i s u h
  obtain ⟨k, -, rfl⟩ := exec_next_retire h
  exact ⟨rfl, rfl, rfl, rfl, fun x hx => read_of_not_writesDw hx⟩

/-- A row in which some state completes is the shared meaning of its term on every state. -/
theorem exec_eq_runDpas_of_next {i : Instr} {s u : State} (h : exec i s = .next u) (s' : State) :
    exec i s' = runDpas i.term s' := by
  have hStop : ∀ {t why}, stopDpas t why s ≠ .next u := by
    intro t why h
    obtain ⟨r, hr⟩ := stopDpas_refuses t why s
    simp [hr] at h
  induction i using byRow with
  | dpas t => rfl
  | admitted k f => rw [exec_kindRow, kindRow_term]
  | _ => exact absurd h hStop

/-- Settles O34: the verdict and the check on the sources come out the same, and so does each written dword. -/
theorem resultDependsOnTheSourcesOnly : Obligations.ResultDependsOnTheSourcesOnly := by
  intro i s s' u hParams hAgree h
  obtain ⟨k, hj, hw, rfl⟩ := runDpas_next (exec_next h)
  have hAgree := hAgree k (kind_of_judge_ok hj)
  have hw' : sourcesWritten s'.params k i.term s'.rf = true := by
    simp only [sourcesWritten, List.all_eq_true, hParams] at hw ⊢
    exact fun x hx => by rw [hAgree x hx]; exact hw x hx
  refine ⟨_, (exec_eq_runDpas_of_next h s').trans (runDpas_of_ok (by rwa [hParams]) hw'), ?_⟩
  rintro x ⟨r, hr, c, hc, he, rfl⟩
  simp only [State.retire_rf, flatIndex, hParams]
  rw [read_newCells hr hc he, read_newCells hr hc he, resultAt_congr_sources (judge_checks hj).1 hAgree hr hc]

/-- What an instruction that completes has done, with its kind. -/
theorem exec_next_legal {i : Instr} {s u : State} (h : exec i s = .next u) :
    ∃ k, dpasKind i.term = some k ∧ judge s.params i.term = .ok k ∧ u.params = s.params ∧
      ∀ x, ¬ WritesDw s.params i.term x → RegFile.read u.rf x = RegFile.read s.rf x := by
  obtain ⟨k, hj, -⟩ := exec_next_retire h
  obtain ⟨-, hParams, -, -, hFrame⟩ := dpasChangesOnlyItsDestination i s u h
  exact ⟨k, kind_of_judge_ok hj, hj, hParams, hFrame⟩

/-- Settles O38: no source is written, so the second execution computes and writes what stands there. -/
theorem separateDestinationIsIdempotent : Obligations.SeparateDestinationIsIdempotent := by
  intro i s u v hApart h h' x
  obtain ⟨k, hk, hj, hParams, hFrame⟩ := exec_next_legal h
  obtain ⟨-, -, -, -, hFrame'⟩ := dpasChangesOnlyItsDestination i u v h'
  rw [hParams] at hFrame'
  obtain ⟨hsd, -, -, -, -, -, hOverlap, -⟩ := judge_checks hj
  by_cases hx : WritesDw s.params i.term x
  · have hSources : ∀ y ∈ readCells s.params k i.term, RegFile.read u.rf y = RegFile.read s.rf y := by
      intro y hy
      refine hFrame y ?_
      rcases mem_readCells.mp hy with ⟨hNull, hy⟩ | hy | hy
      · exact src0_not_written hOverlap hNull (hApart.resolve_left hNull) hy
      · exact src1_not_written hOverlap hy
      · exact src2_not_written hOverlap hy
    obtain ⟨r, hr, c, hc, he, rfl⟩ := hx
    have hv := read_dst_of_exec_next hk h' hr (by rwa [hParams]) (by rwa [hParams])
    rw [hParams, resultAt_congr_sources hsd hSources hr hc] at hv
    rw [hv, read_dst_of_exec_next hk h hr hc he]
  · exact hFrame' x hx

/-! The pseudocode row by row (R118). -/

/-- The cells of the rows below `n`, all computed from `rf`; of all rows of the term they are `newCells`. -/
def cellsBelow (p : Params) (k : Kind) (t : Dpas) (rf : RegFile) (n : Nat) : List (Nat × Dw) :=
  (List.range n).flatMap fun r => rowCells p k t rf r

theorem cellsBelow_succ (p : Params) (k : Kind) (t : Dpas) (rf : RegFile) (n : Nat) :
    cellsBelow p k t rf (n + 1) = cellsBelow p k t rf n ++ rowCells p k t rf n := by
  simp [cellsBelow, List.range_succ]

theorem mem_cellsBelow {p : Params} {k : Kind} {t : Dpas} {rf : RegFile} {n : Nat} {c : Nat × Dw}
    (h : c ∈ cellsBelow p k t rf n) : ∃ r < n, ∃ i < grfDw p.platform,
      channelEnabled p t.execSize.maskCode i = true ∧ c.1 = flatIndex p (operandGrf p t.dst + r) i := by
  simp only [cellsBelow, rowCells, List.mem_flatMap, List.mem_range, List.mem_map, List.mem_filter] at h
  obtain ⟨r, hr, i, ⟨hi, he⟩, rfl⟩ := h
  exact ⟨r, hr, i, hi, he, rfl⟩

theorem rowCells_congr {p : Params} {k : Kind} {t : Dpas} {rf rf' : RegFile} {r : Nat}
    (h : ∀ i < grfDw p.platform, resultAt p k t rf' r i = resultAt p k t rf r i) :
    rowCells p k t rf' r = rowCells p k t rf r := by
  refine List.map_congr_left fun i hi => ?_
  rw [h i (List.mem_range.mp (List.mem_filter.mp hi).1)]

/-- Rows of `Dst` below `n` hold no dword of row `n` of `Src0`: the two operands start at one GRF, or share none. -/
theorem src0_row_not_below {p : Params} {k : Kind} {t : Dpas} (h : LegalOverlap p k t) (hNull : t.src0 ≠ .null)
    {r n i j : Nat} (hr : r < n) (hn : n < t.rc.toNat) (hi : i < grfDw p.platform) (hj : j < grfDw p.platform) :
    flatIndex p (operandGrf p t.dst + r) j ≠ flatIndex p (operandGrf p t.src0 + n) i := by
  intro he
  obtain ⟨-, -, h0⟩ := h
  obtain ⟨hGrf, -⟩ := flat_inj hj hi he
  have := h0.resolve_left hNull
  omega

/-- The rows below `n` change nothing that row `n` is computed from. -/
theorem rowCells_after_below {p : Params} {k : Kind} {t : Dpas} {rf : RegFile} (hsd : t.sd = 8)
    (hOverlap : overlapOk p k t = true) {n : Nat} (hn : n < t.rc.toNat) :
    rowCells p k t (RegFile.writeAll rf (cellsBelow p k t rf n)) n = rowCells p k t rf n := by
  have hUnwritten : ∀ x, ¬ WritesDw p t x →
      RegFile.read (RegFile.writeAll rf (cellsBelow p k t rf n)) x = RegFile.read rf x := by
    refine fun x hx => RegFile.read_writeAll_other fun c hc he => hx ?_
    obtain ⟨r, hr, i, hi, hEnabled, hFlat⟩ := mem_cellsBelow hc
    exact ⟨r, by omega, i, hi, hEnabled, he.symm.trans hFlat⟩
  refine rowCells_congr fun i hi => resultAt_congr_matrices hsd hsd (matC_congr fun hNull => ?_)
    (fun _ hkk => matA_congr hsd (fun x hx => hUnwritten x (src2_not_written hOverlap hx)) hn hkk)
    (fun _ hkk => matB_congr hsd (fun x hx => hUnwritten x (src1_not_written hOverlap hx)) hkk hi)
  refine RegFile.read_writeAll_other fun c hc => ?_
  obtain ⟨r, hr, j, hj, -, hFlat⟩ := mem_cellsBelow hc
  rw [hFlat]
  exact src0_row_not_below ((overlapOk_iff hsd).mp hOverlap) hNull hr hn hi hj

theorem literalRows_eq_newCells {p : Params} {k : Kind} {t : Dpas} (rf : RegFile) (hsd : t.sd = 8)
    (hOverlap : overlapOk p k t = true) : literalRows p k t rf = RegFile.writeAll rf (newCells p k t rf) := by
  have hRows : ∀ n ≤ t.rc.toNat,
      (List.range n).foldl (fun now r => RegFile.writeAll now (rowCells p k t now r)) rf =
        RegFile.writeAll rf (cellsBelow p k t rf n) := by
    intro n
    induction n with
    | zero => exact fun _ => rfl
    | succ n ih =>
      intro hn
      rw [List.range_succ, List.foldl_append, ih (by omega), cellsBelow_succ, RegFile.writeAll_append,
        List.foldl_cons, List.foldl_nil, rowCells_after_below hsd hOverlap hn]
  exact hRows _ (Nat.le_refl _)

/-- Settles O37: row by row, the register file is that of the rows computed together. -/
theorem literalPseudocodeAgrees : Obligations.LiteralPseudocodeAgrees := by
  intro k t s u hk h x
  obtain ⟨hj, -, rfl⟩ := @exec_next_of_kind k (.dpas t) s u hk h
  obtain ⟨hsd, -, -, -, -, -, hOverlap, -⟩ := judge_checks hj
  exact congrArg (RegFile.read · x) (literalRows_eq_newCells s.rf hsd hOverlap)

/-- Settles O39: the term is admitted, so an unwritten dword is found by the check on the sources. -/
theorem unwrittenSourcesFault : Obligations.UnwrittenSourcesFault := by
  intro k f s hLegal hHeld
  have hFault : runDpas (f.admitted k) s = .fault .unwrittenRegister := by
    simp only [runDpas, judge_eq_ok_iff_legal.mpr hLegal, if_neg (mt (sourcesWritten_iff rfl).mp hHeld)]
  exact ⟨(exec_kindRow k f s).trans hFault, hFault⟩

end Sys2Proof.Proofs
end

section
/-! The values a DPAS leaves in `Dst` (R119, R122, R146, R166). -/

namespace Sys2Proof.Proofs

open Machine

/-- A legal DPAS whose sources hold values completes, and each enabled dword of `Dst` is its element of D. -/
theorem runDpas_completes {k : Kind} {t : Dpas} {s : State} (hLegal : Legal s.params k t)
    (hHeld : SourcesHeld s.params k t s.rf) :
    ∃ u, runDpas t s = .next u ∧ u.pc = s.pc + 1 ∧
      ∀ r < t.rc.toNat, ∀ i < grfDw s.params.platform, channelEnabled s.params t.execSize.maskCode i = true →
        RegFile.read u.rf (flatIndex s.params (operandGrf s.params t.dst + r) i) =
          .val (resultAt s.params k t s.rf r i) := by
  have hj := judge_eq_ok_iff_legal.mpr hLegal
  exact ⟨_, runDpas_of_ok hj ((sourcesWritten_iff (judge_checks hj).1).mpr hHeld), rfl,
    fun r hr i hi he => read_newCells hr hi he⟩

theorem accAfter_zero (p : Params) (k : Kind) (t : Dpas) (rf : RegFile) (r i : Nat) :
    accAfter p k t rf r i 0 = matC p t rf r i :=
  accIn_eq_matC p t rf r i

theorem accAfter_succ (p : Params) (k : Kind) (t : Dpas) (rf : RegFile) (r i d : Nat) :
    accAfter p k t rf r i (d + 1) =
      stage k (accAfter p k t rf r i d) (stageB p k t rf d i) (stageA p k t rf r d) := by
  simp [accAfter, List.range_succ]

theorem resultAt_eq_accAfter {t : Dpas} (hsd : t.sd = 8) (p : Params) (k : Kind) (rf : RegFile) (r i : Nat) :
    resultAt p k t rf r i = accAfter p k t rf r i 8 := by
  rw [resultAt, hsd]; rfl

theorem depth_of_legal {p : Params} {k : Kind} {t : Dpas} (h : Legal p k t) : t.sd = 8 :=
  (judge_checks (judge_eq_ok_iff_legal.mpr h)).1

/-- Settles O31: the values between the stages are the accumulators after `d` stages. -/
theorem genericRowRunsTheStages : Obligations.GenericRowRunsTheStages := by
  intro k t s hLegal hHeld
  have hsd := depth_of_legal hLegal
  obtain ⟨u, hExec, hpc, hRead⟩ := runDpas_completes hLegal hHeld
  refine ⟨u, hExec, hpc, fun r hr i hi he => ⟨accAfter s.params k t s.rf r i, accAfter_zero .., fun d _ => ?_, ?_⟩⟩
  · rw [accAfter_succ, stageA_eq_matA hsd, stageB_eq_matB]
  · rw [hRead r hr i hi he, resultAt_eq_accAfter hsd]

/-! The float rows. -/

/-- The two elements of 16 bits of a dword are its halves (R42, R165). -/
theorem elem_sixteen (dw : Word) : BitVec.ofNat 16 (elem 16 dw 0) = dw.extractLsb' 0 16 ∧
    BitVec.ofNat 16 (elem 16 dw 1) = dw.extractLsb' 16 16 := by
  constructor <;> apply BitVec.eq_of_toNat_eq <;> simp [elem, elemLowBit, elemOrder]

theorem map_range_two {α : Type} (f : Nat → α) : (List.range 2).map f = [f 0, f 1] := rfl

/-- R165: with one dword of each source for a stage, the stage takes the halves of dword `d`. -/
theorem stage_eq_floatStageAt {k : Kind} {g : Word → Half → Half → Half → Half → Word} (hP1 : kindP1 k = 16)
    (hP2 : kindP2 k = 16) (hStage : stage k = floatStage g) {t : Dpas} (hsd : t.sd = 8) (p : Params) (rf : RegFile)
    (r i d : Nat) (acc : Word) :
    stage k acc (stageB p k t rf d i) (stageA p k t rf r d) = floatStageAt g p t rf r i d acc := by
  have hOps : kindOps k = 2 := if_pos hP1
  have hB : stageB p k t rf d i = [elem 16 (floatDwB p t rf d i) 0, elem 16 (floatDwB p t rf d i) 1] := by
    have hFirst : (d * 2 + 0) / (32 / 16) = d ∧ (d * 2 + 0) % (32 / 16) = 0 := by omega
    have hSecond : (d * 2 + 1) / (32 / 16) = d ∧ (d * 2 + 1) % (32 / 16) = 1 := by omega
    rw [stageB_eq_matB, hOps, map_range_two]
    simp only [matB, hP1, hFirst, hSecond, floatDwB]
  have hA : stageA p k t rf r d = [elem 16 (floatDwA p t rf r d) 0, elem 16 (floatDwA p t rf r d) 1] := by
    have hFirst : (r * (8 * 2) + (d * 2 + 0)) / (32 / 16) = r * 8 + d ∧
        (r * (8 * 2) + (d * 2 + 0)) % (32 / 16) = 0 := by omega
    have hSecond : (r * (8 * 2) + (d * 2 + 1)) / (32 / 16) = r * 8 + d ∧
        (r * (8 * 2) + (d * 2 + 1)) % (32 / 16) = 1 := by omega
    rw [stageA_eq_matA hsd, hOps, map_range_two]
    simp only [matA, hP2, hOps, hFirst, hSecond, floatDwA, Nat.add_assoc]
  obtain ⟨hB0, hB1⟩ := elem_sixteen (floatDwB p t rf d i)
  obtain ⟨hA0, hA1⟩ := elem_sixteen (floatDwA p t rf r d)
  rw [hStage, hA, hB]
  simp only [floatStage, floatStageAt, List.getD_cons_zero, List.getD_cons_succ, hB0, hB1, hA0, hA1]

/-- R167: eight stages on `C`, each inside the next. -/
theorem resultAt_float {k : Kind} {g : Word → Half → Half → Half → Half → Word} (hP1 : kindP1 k = 16)
    (hP2 : kindP2 k = 16) (hStage : stage k = floatStage g) {t : Dpas} (hsd : t.sd = 8) (p : Params) (rf : RegFile)
    (r i : Nat) :
    resultAt p k t rf r i = (List.range 8).foldl (fun acc d => floatStageAt g p t rf r i d acc) (matC p t rf r i) := by
  rw [resultAt_eq_accAfter hsd, accAfter, accIn_eq_matC]
  exact List.foldl_ext _ _ _ fun acc d _ => stage_eq_floatStageAt hP1 hP2 hStage hsd p rf r i d acc

/-- Settles O28: `resultAt_float` for `FDOT2ACC_bf`, with the fold over eight stages written out. -/
theorem bfRowNestsEightStages : Obligations.BfRowNestsEightStages := by
  intro f s hLegal hHeld
  obtain ⟨u, hExec, hpc, hRead⟩ := runDpas_completes hLegal hHeld
  refine ⟨u, hExec, hpc, fun r hr i hi he => ?_⟩
  exact (hRead r hr i hi he).trans (congrArg Dw.val (resultAt_float rfl rfl rfl rfl _ _ r i))

/-- Settles O29: `resultAt_float` for `FDOT2ACC_hf`, with the fold over eight stages written out. -/
theorem hfRowNestsEightStages : Obligations.HfRowNestsEightStages := by
  intro f s hLegal hHeld
  obtain ⟨u, hExec, hpc, hRead⟩ := runDpas_completes hLegal hHeld
  refine ⟨u, hExec, hpc, fun r hr i hi he => ?_⟩
  exact (hRead r hr i hi he).trans (congrArg Dw.val (resultAt_float rfl rfl rfl rfl _ _ r i))

/-! The integer rows. -/

/-- The exact sum of a stage over the elements it is given (R144, R145). -/
theorem dotOps_map (w a : IntPrec) (b x : Nat → Nat) (n : Nat) :
    dotOps w a ((List.range n).map b) ((List.range n).map x) =
      ∑ j ∈ Finset.range n, intVal a (x j) * intVal w (b j) := by
  rw [dotOps, List.zipWith_map, List.zipWith_self]
  calc ((List.range n).map fun j => intVal w (b j) * intVal a (x j)).sum =
        ∑ j ∈ Finset.range n, intVal w (b j) * intVal a (x j) := rfl
    _ = _ := Finset.sum_congr rfl fun j _ => mul_comm _ _

/-- R146, R148: adding to the number of a dword and wrapping is adding in the dword. -/
theorem ofInt_toNat_add (c : Word) (n : Int) : BitVec.ofInt 32 ((c.toNat : Int) + n) = c + BitVec.ofInt 32 n := by
  rw [BitVec.ofInt_add, BitVec.ofInt_natCast, BitVec.ofNat_toNat, BitVec.setWidth_eq]

/-- The sum of a row as far as element `n`. -/
def rowSumBelow (p : Params) (w a : IntPrec) (t : Dpas) (rf : RegFile) (r i n : Nat) : Int :=
  ∑ kk ∈ Finset.range n, intVal a (matA p (.int w a) t rf r kk) * intVal w (matB p (.int w a) t rf kk i)

theorem accAfter_int {t : Dpas} (hsd : t.sd = 8) (p : Params) (w a : IntPrec) (rf : RegFile) (r i d : Nat) :
    accAfter p (.int w a) t rf r i d =
      matC p t rf r i + BitVec.ofInt 32 (rowSumBelow p w a t rf r i (d * kindOps (.int w a))) := by
  induction d with
  | zero => simp [accAfter_zero, rowSumBelow]
  | succ d ih =>
    have hSplit : rowSumBelow p w a t rf r i ((d + 1) * kindOps (.int w a)) =
        rowSumBelow p w a t rf r i (d * kindOps (.int w a)) +
          dotOps w a (stageB p (.int w a) t rf d i) (stageA p (.int w a) t rf r d) := by
      rw [stageA_eq_matA hsd, stageB_eq_matB, dotOps_map, Nat.succ_mul]
      exact Finset.sum_range_add _ _ _
    rw [accAfter_succ, hSplit, BitVec.ofInt_add, ← BitVec.add_assoc, ← ih]
    exact ofInt_toNat_add _ _

/-- R122, R146: an element of D is its element of C plus the sum of its row, mod `2^32`. -/
theorem resultAt_int {t : Dpas} (hsd : t.sd = 8) (p : Params) (w a : IntPrec) (rf : RegFile) (r i : Nat) :
    resultAt p (.int w a) t rf r i = matC p t rf r i + BitVec.ofInt 32 (rowSum p w a t rf r i) := by
  rw [resultAt_eq_accAfter hsd, accAfter_int hsd]
  rfl

/-- Settles O23: the row completes by `runDpas_completes`, and its element of D is `resultAt_int`. -/
theorem integerRowsComputeTheMatrixForm : Obligations.IntegerRowsComputeTheMatrixForm := by
  intro w a f s hLegal hHeld
  obtain ⟨u, hExec, hpc, hRead⟩ := runDpas_completes hLegal hHeld
  refine ⟨u, (exec_kindRow _ f s).trans hExec, hpc, fun r hr i hi he => ?_⟩
  rw [ofInt_toNat_add, ← resultAt_int rfl]
  exact hRead r hr i hi he

/-- An enabled dword of `Dst` after an integer row that completes. -/
theorem read_dst_int {w a : IntPrec} {f : Form} {s u : State} {r i : Nat} (h : exec (kindRow (.int w a) f) s = .next u)
    (hr : r < f.rc.toNat) (hi : i < grfDw s.params.platform)
    (he : channelEnabled s.params f.execSize.maskCode i = true) :
    RegFile.read u.rf (flatIndex s.params (operandGrf s.params f.dst + r) i) =
      .val (matC s.params (f.admitted (.int w a)) s.rf r i +
        BitVec.ofInt 32 (rowSum s.params w a (f.admitted (.int w a)) s.rf r i)) := by
  have hTerm := kindRow_term (.int w a) f
  have hk : dpasKind (kindRow (.int w a) f).term = some (.int w a) := by simp
  have hRead := @read_dst_of_exec_next _ _ _ _ r i hk h (by rwa [hTerm]) hi (by rwa [hTerm])
  rwa [hTerm, resultAt_int rfl] at hRead

/-- Settles O24: the dword is the integer mod `2^32` in either reading of `C`, and an integer in range is its own residue. -/
theorem integerResultsInRangeAreExact : Obligations.IntegerResultsInRangeAreExact := by
  intro w a f s u r i c x h hr hi he hx hSigned hUnsigned
  rw [read_dst_int h hr hi he] at hx
  have hC : BitVec.ofInt 32 c = matC s.params (f.admitted (.int w a)) s.rf r i := by
    cases hType : f.src0.hasType [.d] with
    | true => rw [hSigned hType, BitVec.ofInt_toInt]
    | false => rw [hUnsigned hType, BitVec.ofInt_natCast, BitVec.ofNat_toNat, BitVec.setWidth_eq]
  obtain rfl : BitVec.ofInt 32 (c + rowSum s.params w a (f.admitted (.int w a)) s.rf r i) = x := by
    rw [BitVec.ofInt_add, hC]
    exact Dw.val.inj hx
  generalize c + rowSum s.params w a (f.admitted (.int w a)) s.rf r i = n
  refine ⟨fun _ hLow hHigh => ?_, fun _ hLow hHigh => ?_⟩
  · rw [BitVec.toInt_ofInt]
    exact Int.bmod_eq_of_le (by omega) (by omega)
  · rw [BitVec.toNat_ofInt]
    omega

/-! Declared types (R148, D22). -/

theorem operandFlat_of_position {o o' : Operand} (h : Operand.position o = Operand.position o') (p : Params) :
    operandFlat p o = operandFlat p o' := by
  cases o <;> cases o' <;> simp_all [Operand.position, operandFlat]

theorem operandGrf_of_position {o o' : Operand} (h : Operand.position o = Operand.position o') (p : Params) :
    operandGrf p o = operandGrf p o' := by
  rw [operandGrf, operandFlat_of_position h, operandGrf]

theorem eq_null_of_position {o o' : Operand} (h : Operand.position o = Operand.position o') :
    o = .null ↔ o' = .null := by
  cases o <;> cases o' <;> simp_all [Operand.position]

theorem newCells_of_sameButTypes {f g : Form} (h : SameButTypes f g) (p : Params) (k : Kind) (rf : RegFile) :
    newCells p k (f.admitted k) rf = newCells p k (g.admitted k) rf := by
  obtain ⟨hSize, hRc, hDst, h0, h1, h2⟩ := h
  have hC : ∀ r i, matC p (f.admitted k) rf r i = matC p (g.admitted k) rf r i := fun r i => by
    rw [← accIn_eq_matC, ← accIn_eq_matC]
    exact if_congr (eq_null_of_position h0) rfl (by simp only [admitted_toForm, operandGrf_of_position h0])
  have hA : ∀ r kk, matA p k (f.admitted k) rf r kk = matA p k (g.admitted k) rf r kk := fun r kk => by
    simp only [matA, admitted_toForm, operandFlat_of_position h2]
  have hB : ∀ kk i, matB p k (f.admitted k) rf kk i = matB p k (g.admitted k) rf kk i := fun kk i => by
    simp only [matB, admitted_toForm, operandGrf_of_position h1]
  have hResult : ∀ r i, resultAt p k (f.admitted k) rf r i = resultAt p k (g.admitted k) rf r i := fun r i =>
    resultAt_congr_matrices rfl rfl (hC r i) (fun kk _ => hA r kk) fun kk _ => hB kk i
  simp only [newCells, rowCells, hResult, admitted_toForm, hSize, hRc, operandGrf_of_position hDst]

/-- Settles O25: the cells written are the same, and nothing else changes. -/
theorem declaredIntegerTypesDoNotMatter : Obligations.DeclaredIntegerTypesDoNotMatter := by
  intro w a f g s u v hSame hf hg
  have hKind : ∀ f, dpasKind (kindRow (.int w a) f).term = some (.int w a) := by simp
  obtain ⟨-, -, rfl⟩ := exec_next_of_kind (hKind f) hf
  obtain ⟨-, -, rfl⟩ := exec_next_of_kind (hKind g) hg
  rw [kindRow_term, kindRow_term, newCells_of_sameButTypes hSame]

theorem intVal_zero (q : IntPrec) : intVal q 0 = 0 := by
  simp [intVal]

/-- Settles O26: every product of the row has a zero factor. -/
theorem zeroElementsLeaveTheAccumulator : Obligations.ZeroElementsLeaveTheAccumulator := by
  intro w a f s u r i h hr hi he hZero
  have hSum : rowSum s.params w a (f.admitted (.int w a)) s.rf r i = 0 := by
    refine Finset.sum_eq_zero fun kk hkk => ?_
    have hkk := Finset.mem_range.mp hkk
    rcases hZero with hA | hB
    · rw [hA kk hkk, intVal_zero, zero_mul]
    · rw [hB kk hkk, intVal_zero, mul_zero]
  rw [read_dst_int h hr hi he, hSum]
  simp

theorem matC_of_ne_null {t : Dpas} (h : t.src0 ≠ .null) (p : Params) (rf : RegFile) (r i : Nat) :
    matC p t rf r i = (RegFile.read rf (flatIndex p (operandGrf p t.src0 + r) i)).word := by
  rw [← accIn_eq_matC, accIn, if_neg h]
  rfl

/-- An instruction that completes leaves the products of its rows as they were: `Src1` and `Src2` are not written (R113). -/
theorem rowSum_after {w a : IntPrec} {f : Form} {s u : State} {r i : Nat} (h : exec (kindRow (.int w a) f) s = .next u)
    (hr : r < f.rc.toNat) (hi : i < grfDw s.params.platform) :
    rowSum s.params w a (f.admitted (.int w a)) u.rf r i = rowSum s.params w a (f.admitted (.int w a)) s.rf r i := by
  obtain ⟨k, hk, hj, -, hFrame⟩ := exec_next_legal h
  simp only [kindRow_term, dpasKind_admitted, Option.some.injEq] at hk hj hFrame
  subst hk
  obtain ⟨-, -, -, -, -, -, hOverlap, -⟩ := judge_checks hj
  refine Finset.sum_congr rfl fun kk hkk => ?_
  have hkk := Finset.mem_range.mp hkk
  rw [matA_congr rfl (fun x hx => hFrame x (src2_not_written hOverlap hx)) hr hkk,
    matB_congr rfl (fun x hx => hFrame x (src1_not_written hOverlap hx)) hkk hi]

/-- Settles O27: the second execution finds the first one's result as its `C`, and the same products. -/
theorem inPlaceDpasAccumulatesTwice : Obligations.InPlaceDpasAccumulatesTwice := by
  intro w a f s u v hNull hSame h h' r hr i hi he
  have hParams : u.params = s.params := (dpasChangesOnlyItsDestination _ s u h).2.1
  have hC : matC s.params (f.admitted (.int w a)) u.rf r i =
      matC s.params (f.admitted (.int w a)) s.rf r i +
        BitVec.ofInt 32 (rowSum s.params w a (f.admitted (.int w a)) s.rf r i) := by
    rw [matC_of_ne_null (by simpa using hNull), admitted_toForm, hSame, read_dst_int h hr hi he]
    rfl
  have hRead := read_dst_int h' hr (by rwa [hParams]) (by rwa [hParams])
  rw [hParams, hC, rowSum_after h hr hi] at hRead
  rw [hRead, ofInt_toNat_add, two_mul, BitVec.ofInt_add, BitVec.add_assoc]

end Sys2Proof.Proofs
end

section
/-! The named property of a float stage function (R161 to R163, R168) fixes its result. -/

namespace Sys2Proof.Proofs

open Machine

/-- Of two equal numbers `a * 2^i` and `b * 2^j` with `a` and `b` of 24 bits, neither has the greater exponent. -/
theorem exponent_le {a b i j : Nat} (ha : a < 2 ^ 24) (hb : 2 ^ 23 ≤ b) (h : a * 2 ^ i = b * 2 ^ j) : j ≤ i := by
  by_contra hLt
  obtain ⟨d, rfl⟩ := Nat.exists_eq_add_of_lt (Nat.lt_of_not_le hLt)
  have hScaled : a = b * 2 ^ d * 2 := by
    refine Nat.eq_of_mul_eq_mul_right (Nat.two_pow_pos i) (h.trans ?_)
    ring
  have hGrows : b ≤ b * 2 ^ d := Nat.le_mul_of_pos_right b (Nat.two_pow_pos d)
  omega

theorem significand_unique {a b i j : Nat} (ha : 2 ^ 23 ≤ a ∧ a < 2 ^ 24) (hb : 2 ^ 23 ≤ b ∧ b < 2 ^ 24)
    (h : a * 2 ^ i = b * 2 ^ j) : a = b ∧ i = j := by
  obtain rfl : i = j := le_antisymm (exponent_le hb.2 ha.1 h.symm) (exponent_le ha.2 hb.1 h)
  exact ⟨Nat.eq_of_mul_eq_mul_right (Nat.two_pow_pos i) h, rfl⟩

/-- The value of an F number that is normal, by sign, exponent and mantissa. -/
theorem fUnits_of_normal {x : Word} (h : fOrdinary x = true) (h0 : fUnits x ≠ 0) :
    1 ≤ fExponent x ∧
      fUnits x = if x.msb = true then -(((2 ^ 23 + fMantissa x) * 2 ^ (fExponent x - 1) : Nat) : Int)
        else ((2 ^ 23 + fMantissa x) * 2 ^ (fExponent x - 1) : Nat) := by
  have hExponent : fExponent x ≠ 0 := by
    intro he
    have hm : fMantissa x = 0 := by simpa [fOrdinary, he] using h
    exact h0 (by simp [fUnits, he, hm])
  exact ⟨by omega, by simp only [fUnits, if_neg hExponent]⟩

theorem eq_of_fields {x y : Word} (hSign : x.msb = y.msb) (hExponent : fExponent x = fExponent y)
    (hMantissa : fMantissa x = fMantissa y) : x = y := by
  rw [BitVec.msb_eq_decide, BitVec.msb_eq_decide, decide_eq_decide] at hSign
  unfold fExponent at hExponent
  unfold fMantissa at hMantissa
  apply BitVec.eq_of_toNat_eq
  omega

theorem sign_and_magnitude_unique {a b : Nat} (ha : 0 < a) {s t : Bool}
    (h : (if s = true then -(a : Int) else a) = if t = true then -(b : Int) else b) : s = t ∧ a = b := by
  cases s <;> cases t <;> simp at h ⊢ <;> omega

/-- Two F numbers that are not subnormal and have one value other than zero are one pattern. -/
theorem fUnits_inj {x y : Word} (hx : fOrdinary x = true) (hy : fOrdinary y = true) (h : fUnits x = fUnits y)
    (h0 : fUnits y ≠ 0) : x = y := by
  obtain ⟨hex, hux⟩ := fUnits_of_normal hx (h ▸ h0)
  obtain ⟨hey, huy⟩ := fUnits_of_normal hy h0
  have hmx : fMantissa x < 2 ^ 23 := Nat.mod_lt _ (by decide)
  have hmy : fMantissa y < 2 ^ 23 := Nat.mod_lt _ (by decide)
  have hpx : 0 < (2 ^ 23 + fMantissa x) * 2 ^ (fExponent x - 1) := by positivity
  rw [hux, huy] at h
  have hSame := sign_and_magnitude_unique hpx h
  obtain ⟨hm, he⟩ := significand_unique (by omega) (by omega) hSame.2
  exact eq_of_fields hSame.1 (by omega) (by omega)

/-- A stage result with the value of a given pattern is that pattern. -/
theorem eq_of_value {x y : Word} {v : Int} (h : fOrdinary x = true ∧ fUnits x * 2 ^ 149 = v) (hy : fOrdinary y = true)
    (hv : fUnits y * 2 ^ 149 = v) (h0 : fUnits y ≠ 0) : x = y :=
  fUnits_inj h.1 hy (mul_right_cancel₀ (by positivity) (h.2.trans hv.symm)) h0

/-- Settles O30: the partial values are 0.5, 6, 6.5, 1.5, 7 and 7.5 for `bf`, and -4, 3, -1, 12, 19 and 15 for `hf`, each an
F number. -/
theorem exactStageFunctionsGiveTheExamples : Obligations.ExactStageFunctionsGiveTheExamples := by
  refine ⟨fun g hg => ?_, fun g hg => ?_⟩
  · exact eq_of_value (hg _ _ _ _ _ (by decide) (by decide) (by decide) (by decide) (by decide)
      ⟨0x3F000000, by decide, by decide⟩ ⟨0x40C00000, by decide, by decide⟩ ⟨0x40D00000, by decide, by decide⟩
      ⟨0x3FC00000, by decide, by decide⟩ ⟨0x40E00000, by decide, by decide⟩ ⟨0x40F00000, by decide, by decide⟩)
      (by decide) (by decide) (by decide)
  · exact eq_of_value (hg _ _ _ _ _ (by decide) (by decide) (by decide) (by decide) (by decide)
      ⟨0xC0800000, by decide, by decide⟩ ⟨0x40400000, by decide, by decide⟩ ⟨0xBF800000, by decide, by decide⟩
      ⟨0x41400000, by decide, by decide⟩ ⟨0x41980000, by decide, by decide⟩ ⟨0x41700000, by decide, by decide⟩)
      (by decide) (by decide) (by decide)

end Sys2Proof.Proofs
end
